-- ==== Sys2Proof/Word.lean ====
section
/-! DEFINITION. The bit-vector types of the block: bytes on the wire, 16-bit operand registers, the 32-bit rate (R8, R12:
every quantity is unsigned). -/

namespace Sys2Proof

/-- A byte, bit 7 its most significant bit (R8). -/
abbrev Byte := BitVec 8

/-- A 16-bit operand register or length (R21, R23). -/
abbrev Word16 := BitVec 16

/-- The 32-bit rate operand and parsed integer (R22, R33). -/
abbrev Word32 := BitVec 32

end Sys2Proof
end

