-- ==== Sys2Proof/Config.lean ====
section
/-! DEFINITION. The parameters of the block (R7) and the free values. A parameter that R7 calls fixed is a constant; one it
calls OPEN, and every answer of the Transport the spec leaves free, is an opaque constant without a body, so that no proof
can know its value. -/

namespace Sys2Proof

/-- What `T.write` answers (R16). -/
inductive WriteAnswer where
  | ok
  | ioerr
deriving DecidableEq, Repr, Inhabited

/-- What happens until `T.readExact` returns (R16, R74, R247): an I/O error, or `bytes` arrive behind the ones already buffered,
of which the oldest `lost` are gone, and the call hands over `k` bytes, any count, at most as many as it was asked for and as
there are. That buffered bytes may be lost is DESIGN CHOICE, safe: no source excludes it (log entry 17). What the inbound buffer holds after an I/O error no rule
says: DESIGN CHOICE, safe, it is left open, any bytes, and comes with the answer (log entry 25). -/
inductive ReadAnswer where
  | ioerr (buffered : List Byte)
  | arrived (bytes : List Byte) (k : Nat) (lost : Nat := 0)
deriving DecidableEq, Repr, Inhabited

/-- Frame byte 0 (R7, R91). -/
def Config.header : Byte := 0xA5

/-- The four bytes before the checksum (R7, R95). -/
def Config.trailer : List Byte := [0xCC, 0x33, 0xC3, 0x3C]

/-- Frame bytes that are not payload (R7, R97). -/
def Config.overhead : Nat := 9

/-- The largest frame the encoder builds (R7, R35; log entry 13: the default). -/
def Config.maxFrame : Nat := 1033

/-- The largest string length, the NUL not counted (R7, R98). -/
def Config.maxStr : Nat := Config.maxFrame - 14

/-- The largest caller-chosen read size of GetBaudRate (R7, R24). -/
def Config.nreadMax : Nat := 9

/-- `T_SETTLE(o)`, an OPEN parameter without a unit (R7, R244; log entry 14). -/
opaque Config.tSettle : Byte → Nat

/-- `T_TIMEOUT(o)`, an OPEN parameter without a unit (R7, R244; log entry 14). -/
opaque Config.tTimeout : Byte → Nat

/-- The answer of a `T.write` that no given answer covers: a free value (R38, R247; log entry 2). -/
opaque Config.freeWrite : Nat → WriteAnswer

/-- The answer of a `T.readExact` that no given answer covers: a free value (R38, R247; log entry 2). -/
opaque Config.freeRead : Nat → ReadAnswer

/-- What PH_WRITE leaves in IDX, which no rule states: a free value (R27; log entry 3). -/
opaque Config.freeIdx : Nat → BitVec 11

end Sys2Proof
end

