-- ==== Sys2Proof/Syntax.lean ====
section
/-! DEFINITION. The Command Set (R104) as data: the enumerations (R112), the payload formats (R100), the reply shapes (R140),
the 28 opcodes by name, and the commands with their operands. An operand is what the host latches: a 16-bit register value
(also for an enumeration, so that a value outside its domain can be issued, R102), the 4-bit read size, or a list of
characters. -/

namespace Sys2Proof

/-- Color (R112). -/
inductive Color where
  | black | darkGrey | lightGrey | white
deriving DecidableEq, Repr

/-- StorageArea (R112). -/
inductive StorageArea where
  | nandFlash | microSd
deriving DecidableEq, Repr

/-- DisplayDirection (R112). -/
inductive DisplayDirection where
  | normal | inverted
deriving DecidableEq, Repr

/-- FontSize (R112). -/
inductive FontSize where
  | size32 | size48 | size64
deriving DecidableEq, Repr

/-- The four enumerated value domains (R112). -/
inductive Domain where
  | color | storageArea | displayDirection | fontSize
deriving DecidableEq, Repr

/-- The nine payload formats (R100); a format with enumeration operands names their domains (R104). -/
inductive Format where
  | p0
  | pe1 (d : Domain)
  | pe2 (d0 d1 : Domain)
  | pr
  | pc2
  | pc3
  | pc4
  | pc6
  | ps
deriving DecidableEq, Repr

/-- The reply shapes (R140). -/
inductive Shape where
  | ack
  | byte (d : Domain)
  | colorPair
  | numericAscii
  | none
deriving DecidableEq, Repr

/-- The 28 opcodes of the Command Set by mnemonic (R104). -/
inductive Opcode where
  | handshake | setBaudRate | getBaudRate | getStorageArea | setStorageArea | enterSleep | refresh
  | getDisplayDirection | setDisplayDirection | importFontLibrary | importImage
  | setDrawingColor | getDrawingColor | getEnglishFontSize | getChineseFontSize | setEnglishFontSize | setChineseFontSize
  | drawPoint | drawLine | fillRectangle | drawRectangle | drawCircle | fillCircle | drawTriangle | fillTriangle
  | clearScreen | displayText | displayImage
deriving DecidableEq, Repr

/-- A command with its operands, one constructor per row of the opcode table (R104). -/
inductive Instr where
  | handshake
  | setBaudRate (rate : Word32)
  | getBaudRate (nread : BitVec 4)
  | getStorageArea
  | setStorageArea (area : Word16)
  | enterSleep
  | refresh
  | getDisplayDirection
  | setDisplayDirection (dir : Word16)
  | importFontLibrary
  | importImage
  | setDrawingColor (color background : Word16)
  | getDrawingColor
  | getEnglishFontSize
  | getChineseFontSize
  | setEnglishFontSize (size : Word16)
  | setChineseFontSize (size : Word16)
  | drawPoint (x y : Word16)
  | drawLine (x0 y0 x1 y1 : Word16)
  | fillRectangle (x0 y0 x1 y1 : Word16)
  | drawRectangle (x0 y0 x1 y1 : Word16)
  | drawCircle (x y r : Word16)
  | fillCircle (x y r : Word16)
  | drawTriangle (x0 y0 x1 y1 x2 y2 : Word16)
  | fillTriangle (x0 y0 x1 y1 x2 y2 : Word16)
  | clearScreen
  | displayText (x y : Word16) (str : List Byte)
  | displayImage (x y : Word16) (str : List Byte)
deriving DecidableEq, Repr

/-- Why the reference decoder calls a byte sequence invalid (R110, in the order of its checks). -/
inductive DecodeError where
  | tooShort | badHeader | badLength | tooLong | badTrailer | badChecksum
  | unknownOpcode | badPayloadLength | badString | badOperand
deriving DecidableEq, Repr

end Sys2Proof
end

