-- ==== Sys2Proof/Decode.lean ====
section
/-! DEFINITION. The Frame Codec as pure functions (30_encoding): byte order and checksum, the opcode map, the enumerations,
the payload of a command, the frame of a command (the encoder), the reference decoder on any bytes, and the reading of an
opcode-table word. The block itself never runs the decoder (R110, R116). -/

namespace Sys2Proof

/-! ## Byte order and checksum -/

/-- Big-endian assembly of 16 bits (R10). -/
def be16 (v : Word16) : List Byte := [v.extractLsb' 8 8, v.extractLsb' 0 8]

/-- Big-endian assembly of 32 bits (R10). -/
def be32 (v : Word32) : List Byte :=
  [v.extractLsb' 24 8, v.extractLsb' 16 8, v.extractLsb' 8 8, v.extractLsb' 0 8]

/-- The 16-bit value of two bytes, the high one first (R10). -/
def unbe16 (h l : Byte) : Word16 := h ++ l

/-- The 32-bit value of four bytes, the highest first: the inverse of `be32` (R110). -/
def unbe32 (a b c d : Byte) : Word32 := a ++ b ++ c ++ d

/-- The XOR fold (R11). -/
def xor8 (s : List Byte) : Byte := s.foldl (fun a b => a ^^^ b) 0

/-! ## Enumerations (R112) -/

/-- The code of a colour (R112). -/
def Color.code : Color → Byte
  | .black => 0 | .darkGrey => 1 | .lightGrey => 2 | .white => 3

/-- The code of a storage area (R112). -/
def StorageArea.code : StorageArea → Byte
  | .nandFlash => 0 | .microSd => 1

/-- The code of a display direction (R112). -/
def DisplayDirection.code : DisplayDirection → Byte
  | .normal => 0 | .inverted => 1

/-- The code of a font size, which has no member 0 (R112). -/
def FontSize.code : FontSize → Byte
  | .size32 => 1 | .size48 => 2 | .size64 => 3

/-- The codes of a domain, the lowest-ordinal member first (R112). -/
def Domain.codes : Domain → List Byte
  | .color => [Color.black.code, Color.darkGrey.code, Color.lightGrey.code, Color.white.code]
  | .storageArea => [StorageArea.nandFlash.code, StorageArea.microSd.code]
  | .displayDirection => [DisplayDirection.normal.code, DisplayDirection.inverted.code]
  | .fontSize => [FontSize.size32.code, FontSize.size48.code, FontSize.size64.code]

/-- `InDomain(E, v)` of an operand register: all 16 bits count, so a value above 255 is never a member (R102, R112). -/
def inDomain (d : Domain) (v : Word16) : Bool := d.codes.any (fun c => c.setWidth 16 == v)

/-- The lowest-ordinal member, the fallback of a reply decode (R112, R142). -/
def Domain.lowest : Domain → Byte
  | .color => Color.black.code
  | .storageArea => StorageArea.nandFlash.code
  | .displayDirection => DisplayDirection.normal.code
  | .fontSize => FontSize.size32.code

/-! ## The opcode map (R104) -/

/-- The opcode byte of each command (R104). -/
def Opcode.byte : Opcode → Byte
  | .handshake => 0x00
  | .setBaudRate => 0x01
  | .getBaudRate => 0x02
  | .getStorageArea => 0x06
  | .setStorageArea => 0x07
  | .enterSleep => 0x08
  | .refresh => 0x0A
  | .getDisplayDirection => 0x0C
  | .setDisplayDirection => 0x0D
  | .importFontLibrary => 0x0E
  | .importImage => 0x0F
  | .setDrawingColor => 0x10
  | .getDrawingColor => 0x11
  | .getEnglishFontSize => 0x1C
  | .getChineseFontSize => 0x1D
  | .setEnglishFontSize => 0x1E
  | .setChineseFontSize => 0x1F
  | .drawPoint => 0x20
  | .drawLine => 0x22
  | .fillRectangle => 0x24
  | .drawRectangle => 0x25
  | .drawCircle => 0x26
  | .fillCircle => 0x27
  | .drawTriangle => 0x28
  | .fillTriangle => 0x29
  | .clearScreen => 0x2E
  | .displayText => 0x30
  | .displayImage => 0x70

/-- The payload format of each command (R104). -/
def Opcode.format : Opcode → Format
  | .handshake => .p0
  | .setBaudRate => .pr
  | .getBaudRate => .p0
  | .getStorageArea => .p0
  | .setStorageArea => .pe1 .storageArea
  | .enterSleep => .p0
  | .refresh => .p0
  | .getDisplayDirection => .p0
  | .setDisplayDirection => .pe1 .displayDirection
  | .importFontLibrary => .p0
  | .importImage => .p0
  | .setDrawingColor => .pe2 .color .color
  | .getDrawingColor => .p0
  | .getEnglishFontSize => .p0
  | .getChineseFontSize => .p0
  | .setEnglishFontSize => .pe1 .fontSize
  | .setChineseFontSize => .pe1 .fontSize
  | .drawPoint => .pc2
  | .drawLine => .pc4
  | .fillRectangle => .pc4
  | .drawRectangle => .pc4
  | .drawCircle => .pc3
  | .fillCircle => .pc3
  | .drawTriangle => .pc6
  | .fillTriangle => .pc6
  | .clearScreen => .p0
  | .displayText => .ps
  | .displayImage => .ps

/-- The reply shape of each command's own frame (R104, R140); SetBaudRate's frame has none (R134). -/
def Opcode.shape : Opcode → Shape
  | .handshake => .ack
  | .setBaudRate => .none
  | .getBaudRate => .numericAscii
  | .getStorageArea => .byte .storageArea
  | .setStorageArea => .ack
  | .enterSleep => .none
  | .refresh => .ack
  | .getDisplayDirection => .byte .displayDirection
  | .setDisplayDirection => .ack
  | .importFontLibrary => .ack
  | .importImage => .ack
  | .setDrawingColor => .ack
  | .getDrawingColor => .colorPair
  | .getEnglishFontSize => .byte .fontSize
  | .getChineseFontSize => .byte .fontSize
  | .setEnglishFontSize => .ack
  | .setChineseFontSize => .ack
  | .drawPoint => .ack
  | .drawLine => .ack
  | .fillRectangle => .ack
  | .drawRectangle => .ack
  | .drawCircle => .ack
  | .fillCircle => .ack
  | .drawTriangle => .ack
  | .fillTriangle => .ack
  | .clearScreen => .ack
  | .displayText => .ack
  | .displayImage => .ack

/-- `n(o)`, the byte count a reply shape asks for (R140); for NumericAscii the caller's read size. -/
def Shape.count (nread : BitVec 4) : Shape → Nat
  | .ack => 2
  | .byte _ => 1
  | .colorPair => 2
  | .numericAscii => nread.toNat
  | .none => 0

/-- The shape is one that reads a reply (R140). -/
def Shape.reads : Shape → Bool
  | .ack | .byte _ | .colorPair | .numericAscii => true
  | .none => false

/-- The whole Command Set, in opcode order (R104). -/
def Opcode.all : List Opcode :=
  [.handshake, .setBaudRate, .getBaudRate, .getStorageArea, .setStorageArea, .enterSleep, .refresh] ++
  [.getDisplayDirection, .setDisplayDirection, .importFontLibrary, .importImage, .setDrawingColor, .getDrawingColor] ++
  [.getEnglishFontSize, .getChineseFontSize, .setEnglishFontSize, .setChineseFontSize, .drawPoint, .drawLine] ++
  [.fillRectangle, .drawRectangle, .drawCircle, .fillCircle, .drawTriangle, .fillTriangle, .clearScreen] ++
  [.displayText, .displayImage]

/-- The command an opcode byte names, none for the 228 other values (R104, R106). -/
def Opcode.ofByte (b : Byte) : Option Opcode := Opcode.all.find? (fun o => o.byte == b)

/-- The opcode of a command (R104). -/
def Instr.opcode : Instr → Opcode
  | .handshake => .handshake
  | .setBaudRate _ => .setBaudRate
  | .getBaudRate _ => .getBaudRate
  | .getStorageArea => .getStorageArea
  | .setStorageArea _ => .setStorageArea
  | .enterSleep => .enterSleep
  | .refresh => .refresh
  | .getDisplayDirection => .getDisplayDirection
  | .setDisplayDirection _ => .setDisplayDirection
  | .importFontLibrary => .importFontLibrary
  | .importImage => .importImage
  | .setDrawingColor _ _ => .setDrawingColor
  | .getDrawingColor => .getDrawingColor
  | .getEnglishFontSize => .getEnglishFontSize
  | .getChineseFontSize => .getChineseFontSize
  | .setEnglishFontSize _ => .setEnglishFontSize
  | .setChineseFontSize _ => .setChineseFontSize
  | .drawPoint _ _ => .drawPoint
  | .drawLine _ _ _ _ => .drawLine
  | .fillRectangle _ _ _ _ => .fillRectangle
  | .drawRectangle _ _ _ _ => .drawRectangle
  | .drawCircle _ _ _ => .drawCircle
  | .fillCircle _ _ _ => .fillCircle
  | .drawTriangle _ _ _ _ _ _ => .drawTriangle
  | .fillTriangle _ _ _ _ _ _ => .fillTriangle
  | .clearScreen => .clearScreen
  | .displayText _ _ _ => .displayText
  | .displayImage _ _ _ => .displayImage

/-! ## Payload formats (R100) -/

/-- The low byte of an operand register, `x[7:0]` (R8, R100). -/
def lo8 (v : Word16) : Byte := v.extractLsb' 0 8

/-- Format PE1 (R100). -/
def payloadE1 (a : Word16) : List Byte := [lo8 a]

/-- Format PE2 (R100). -/
def payloadE2 (a b : Word16) : List Byte := [lo8 a, lo8 b]

/-- Format PR (R100). -/
def payloadR (rate : Word32) : List Byte := be32 rate

/-- Format PC2 (R100, R101). -/
def payloadC2 (a b : Word16) : List Byte := be16 a ++ be16 b

/-- Format PC3 (R100, R101). -/
def payloadC3 (a b c : Word16) : List Byte := be16 a ++ be16 b ++ be16 c

/-- Format PC4 (R100, R101). -/
def payloadC4 (a b c d : Word16) : List Byte := be16 a ++ be16 b ++ be16 c ++ be16 d

/-- Format PC6 (R100, R101). -/
def payloadC6 (a b c d e f : Word16) : List Byte := be16 a ++ be16 b ++ be16 c ++ be16 d ++ be16 e ++ be16 f

/-- Format PS: the position, the characters, the terminating NUL (R100, R103). -/
def payloadS (a b : Word16) (str : List Byte) : List Byte := be16 a ++ be16 b ++ str ++ [0x00]

/-- The payload bytes of a command (R100, R104). -/
def Instr.payload : Instr → List Byte
  | .handshake => []
  | .setBaudRate rate => payloadR rate
  | .getBaudRate _ => []
  | .getStorageArea => []
  | .setStorageArea area => payloadE1 area
  | .enterSleep => []
  | .refresh => []
  | .getDisplayDirection => []
  | .setDisplayDirection dir => payloadE1 dir
  | .importFontLibrary => []
  | .importImage => []
  | .setDrawingColor color background => payloadE2 color background
  | .getDrawingColor => []
  | .getEnglishFontSize => []
  | .getChineseFontSize => []
  | .setEnglishFontSize size => payloadE1 size
  | .setChineseFontSize size => payloadE1 size
  | .drawPoint x y => payloadC2 x y
  | .drawLine x0 y0 x1 y1 => payloadC4 x0 y0 x1 y1
  | .fillRectangle x0 y0 x1 y1 => payloadC4 x0 y0 x1 y1
  | .drawRectangle x0 y0 x1 y1 => payloadC4 x0 y0 x1 y1
  | .drawCircle x y r => payloadC3 x y r
  | .fillCircle x y r => payloadC3 x y r
  | .drawTriangle x0 y0 x1 y1 x2 y2 => payloadC6 x0 y0 x1 y1 x2 y2
  | .fillTriangle x0 y0 x1 y1 x2 y2 => payloadC6 x0 y0 x1 y1 x2 y2
  | .clearScreen => []
  | .displayText x y str => payloadS x y str
  | .displayImage x y str => payloadS x y str

/-! ## The checks a command must pass to be encoded (R108) -/

/-- Check 2: every enumeration operand is in its domain (R102, R108). -/
def Instr.operandsInDomain : Instr → Bool
  | .setStorageArea area => inDomain .storageArea area
  | .setDisplayDirection dir => inDomain .displayDirection dir
  | .setDrawingColor color background => inDomain .color color && inDomain .color background
  | .setEnglishFontSize size => inDomain .fontSize size
  | .setChineseFontSize size => inDomain .fontSize size
  | .handshake | .setBaudRate _ | .getBaudRate _ | .getStorageArea | .enterSleep | .refresh | .getDisplayDirection
  | .importFontLibrary | .importImage | .getDrawingColor | .getEnglishFontSize | .getChineseFontSize | .drawPoint _ _
  | .drawLine _ _ _ _ | .fillRectangle _ _ _ _ | .drawRectangle _ _ _ _ | .drawCircle _ _ _ | .fillCircle _ _ _
  | .drawTriangle _ _ _ _ _ _ | .fillTriangle _ _ _ _ _ _ | .clearScreen | .displayText _ _ _ | .displayImage _ _ _ => true

/-- The legal read sizes of GetBaudRate, 1 to 9 (R24). -/
def readSizeLegal (nread : BitVec 4) : Bool := 1 ≤ nread.toNat && nread.toNat ≤ Config.nreadMax

/-- The frame of a string of `n` characters fits (R98, R99); the sum is a natural number and never wraps. -/
def stringFits (n : Nat) : Bool := 14 + n ≤ Config.maxFrame

/-- No character is the terminator 0x00 (R103). -/
def stringClean (str : List Byte) : Bool := str.all (fun b => b != 0x00)

/-- Check 3: the read size of GetBaudRate is legal (R24, R108). -/
def Instr.readSizeOk : Instr → Bool
  | .getBaudRate nread => readSizeLegal nread
  | .handshake | .setBaudRate _ | .getStorageArea | .setStorageArea _ | .enterSleep | .refresh | .getDisplayDirection
  | .setDisplayDirection _ | .importFontLibrary | .importImage | .setDrawingColor _ _ | .getDrawingColor | .getEnglishFontSize
  | .getChineseFontSize | .setEnglishFontSize _ | .setChineseFontSize _ | .drawPoint _ _ | .drawLine _ _ _ _
  | .fillRectangle _ _ _ _ | .drawRectangle _ _ _ _ | .drawCircle _ _ _ | .fillCircle _ _ _ | .drawTriangle _ _ _ _ _ _
  | .fillTriangle _ _ _ _ _ _ | .clearScreen | .displayText _ _ _ | .displayImage _ _ _ => true

/-- The string operand of a command, empty where it has none (R100, format PS). -/
def Instr.text : Instr → List Byte
  | .displayText _ _ str => str
  | .displayImage _ _ str => str
  | .handshake | .setBaudRate _ | .getBaudRate _ | .getStorageArea | .setStorageArea _ | .enterSleep | .refresh
  | .getDisplayDirection | .setDisplayDirection _ | .importFontLibrary | .importImage | .setDrawingColor _ _
  | .getDrawingColor | .getEnglishFontSize | .getChineseFontSize | .setEnglishFontSize _ | .setChineseFontSize _
  | .drawPoint _ _ | .drawLine _ _ _ _ | .fillRectangle _ _ _ _ | .drawRectangle _ _ _ _ | .drawCircle _ _ _
  | .fillCircle _ _ _ | .drawTriangle _ _ _ _ _ _ | .fillTriangle _ _ _ _ _ _ | .clearScreen => []

/-- Check 4: a string fits the frame (R99, R108). -/
def Instr.textFits (i : Instr) : Bool := stringFits i.text.length

/-- Check 5: a string holds no 0x00 (R103, R108). -/
def Instr.textClean (i : Instr) : Bool := stringClean i.text

/-! ## The encoder (R107) -/

/-- The frame bytes before the checksum: header, length, opcode, payload, trailer (R90 to R95). -/
def frameBody (op : Byte) (payload : List Byte) : List Byte :=
  [Config.header] ++ be16 (BitVec.ofNat 16 (Config.overhead + payload.length)) ++ [op] ++ payload ++ Config.trailer

/-- The frame of an opcode and a payload (R90, R96, R107). -/
def frameBytes (op : Byte) (payload : List Byte) : List Byte :=
  frameBody op payload ++ [xor8 (frameBody op payload)]

/-- The frame of a command that passes the checks of R108 (R104, R107). -/
def encode (i : Instr) : List Byte := frameBytes i.opcode.byte i.payload

/-! ## The reference decoder (R110) -/

/-- Format P0 read back (R110). -/
def readP0 (i : Instr) : List Byte → Except DecodeError Instr
  | [] => .ok i
  | _ :: _ => .error .badPayloadLength

/-- Format PE1 read back (R110). -/
def readE1 (f : Word16 → Instr) : List Byte → Except DecodeError Instr
  | [a] => .ok (f (a.setWidth 16))
  | _ => .error .badPayloadLength

/-- Format PE2 read back (R110). -/
def readE2 (f : Word16 → Word16 → Instr) : List Byte → Except DecodeError Instr
  | [a, b] => .ok (f (a.setWidth 16) (b.setWidth 16))
  | _ => .error .badPayloadLength

/-- Format PR read back (R110). -/
def readR (f : Word32 → Instr) : List Byte → Except DecodeError Instr
  | [a, b, c, d] => .ok (f (unbe32 a b c d))
  | _ => .error .badPayloadLength

/-- Format PC2 read back (R110). -/
def readC2 (f : Word16 → Word16 → Instr) : List Byte → Except DecodeError Instr
  | [a, b, c, d] => .ok (f (unbe16 a b) (unbe16 c d))
  | _ => .error .badPayloadLength

/-- Format PC3 read back (R110). -/
def readC3 (f : Word16 → Word16 → Word16 → Instr) : List Byte → Except DecodeError Instr
  | [a, b, c, d, e, g] => .ok (f (unbe16 a b) (unbe16 c d) (unbe16 e g))
  | _ => .error .badPayloadLength

/-- Format PC4 read back (R110). -/
def readC4 (f : Word16 → Word16 → Word16 → Word16 → Instr) : List Byte → Except DecodeError Instr
  | [a, b, c, d, e, g, h, k] => .ok (f (unbe16 a b) (unbe16 c d) (unbe16 e g) (unbe16 h k))
  | _ => .error .badPayloadLength

/-- Format PC6 read back (R110). -/
def readC6 (f : Word16 → Word16 → Word16 → Word16 → Word16 → Word16 → Instr) : List Byte → Except DecodeError Instr
  | [a, b, c, d, e, g, h, k, l, m, n, o] =>
    .ok (f (unbe16 a b) (unbe16 c d) (unbe16 e g) (unbe16 h k) (unbe16 l m) (unbe16 n o))
  | _ => .error .badPayloadLength

/-- Format PS read back: at least 5 bytes, the last one the NUL, no NUL among the characters (R110). -/
def readS (f : Word16 → Word16 → List Byte → Instr) : List Byte → Except DecodeError Instr
  | a :: b :: c :: d :: e :: rest =>
    if (e :: rest).getLastD 0xFF ≠ 0x00 then .error .badString
    else if !stringClean (e :: rest).dropLast then .error .badString
    else .ok (f (unbe16 a b) (unbe16 c d) (e :: rest).dropLast)
  | _ => .error .badPayloadLength

/-- The payload of a known opcode read back into a command (R110). The frame does not carry NREAD: a decoded GetBaudRate
holds the largest legal read size (log entry 8). -/
def readPayload (p : List Byte) : Opcode → Except DecodeError Instr
  | .handshake => readP0 .handshake p
  | .setBaudRate => readR .setBaudRate p
  | .getBaudRate => readP0 (.getBaudRate 9) p
  | .getStorageArea => readP0 .getStorageArea p
  | .setStorageArea => readE1 .setStorageArea p
  | .enterSleep => readP0 .enterSleep p
  | .refresh => readP0 .refresh p
  | .getDisplayDirection => readP0 .getDisplayDirection p
  | .setDisplayDirection => readE1 .setDisplayDirection p
  | .importFontLibrary => readP0 .importFontLibrary p
  | .importImage => readP0 .importImage p
  | .setDrawingColor => readE2 .setDrawingColor p
  | .getDrawingColor => readP0 .getDrawingColor p
  | .getEnglishFontSize => readP0 .getEnglishFontSize p
  | .getChineseFontSize => readP0 .getChineseFontSize p
  | .setEnglishFontSize => readE1 .setEnglishFontSize p
  | .setChineseFontSize => readE1 .setChineseFontSize p
  | .drawPoint => readC2 .drawPoint p
  | .drawLine => readC4 .drawLine p
  | .fillRectangle => readC4 .fillRectangle p
  | .drawRectangle => readC4 .drawRectangle p
  | .drawCircle => readC3 .drawCircle p
  | .fillCircle => readC3 .fillCircle p
  | .drawTriangle => readC6 .drawTriangle p
  | .fillTriangle => readC6 .fillTriangle p
  | .clearScreen => readP0 .clearScreen p
  | .displayText => readS .displayText p
  | .displayImage => readS .displayImage p

/-- All checks of R110 but the last (operand domains), on any bytes, the first failing one named. -/
def decode (b : List Byte) : Except DecodeError Instr :=
  if b.length < Config.overhead then .error .tooShort
  else if b.getD 0 0 ≠ Config.header then .error .badHeader
  else if (unbe16 (b.getD 1 0) (b.getD 2 0)).toNat ≠ b.length then .error .badLength
  else if b.length > Config.maxFrame then .error .tooLong
  else if (b.drop (b.length - 5)).take 4 ≠ Config.trailer then .error .badTrailer
  else if xor8 (b.take (b.length - 1)) ≠ b.getD (b.length - 1) 0 then .error .badChecksum
  else
    match Opcode.ofByte (b.getD 3 0) with
    | none => .error .unknownOpcode
    | some o => readPayload ((b.drop 4).take (b.length - Config.overhead)) o

/-- `FrameDecode`, the reference decoder with all its checks (R110). -/
def frameDecode (b : List Byte) : Except DecodeError Instr :=
  match decode b with
  | .error e => .error e
  | .ok i => if i.operandsInDomain then .ok i else .error .badOperand

/-- The wire fields of a command: the read size of GetBaudRate is not one of them (R111, log entry 8). -/
def Instr.wire : Instr → Instr
  | .getBaudRate _ => .getBaudRate 9
  | i => i

/-! ## Reading an opcode-table word (R115) -/

/-- Byte `j` of a frame numbered as the opcode table numbers it: 32-bit words, each big-endian (R115). R115 gives the first
word only; DESIGN CHOICE, safe: frame bytes 4 and up follow in words of the same form at the higher bits (log entry 7). -/
def tableByte (w j : Nat) : Byte := BitVec.ofNat 8 (w >>> (32 * (j / 4) + 8 * (3 - j % 4)))

/-- The total length a table word stands for: its length field, or the shortest frame of a row whose length the table leaves
open and whose length bits are 0 (R115, log entry 7). -/
def tableLength (w : Nat) : Nat :=
  let l := (unbe16 (tableByte w 1) (tableByte w 2)).toNat
  match Opcode.ofByte (tableByte w 3) with
  | some o => if o.format = .ps ∧ l = 0 then 14 else l
  | none => l

/-- The frame a table word stands for: its first four bytes, payload bytes from its higher bits (zeros where it has none), and
the trailer and checksum that the format gives every frame (R90, R115). DESIGN CHOICE, unsafe for a claim that takes a word of
more than 32 bits for a whole frame: trailer and checksum are always made anew, so those that stand in the word, right or
wrong, are dropped, and bits beyond the payload or at and above `nbits` are ignored (log entry 7). -/
def tableFrame (nbits w : Nat) : List Byte :=
  let v := w % 2 ^ nbits
  let n := min (tableLength v - Config.overhead) Config.maxFrame
  let body := [tableByte v 0] ++ be16 (BitVec.ofNat 16 (tableLength v)) ++ [tableByte v 3] ++
    (List.range n).map (fun j => tableByte v (4 + j)) ++ Config.trailer
  body ++ [xor8 body]

/-- The command the reference decoder reads from a table word, with every check of R110 (none where it refuses; R115). -/
def decodeTableWord (nbits w : Nat) : Option Instr :=
  match frameDecode (tableFrame nbits w) with
  | .ok i => some i
  | .error _ => none

end Sys2Proof
end

