-- ==== Sys2Proof/WellFormed.lean ====
section
/-! DEFINITION. Which commands are well formed: those that pass the checks R108 makes before a payload is built, so that
their encoding succeeds. A command that is not well formed can still be issued; it ends with EncodingError (R231). -/

namespace Sys2Proof

/-- The checks 2 to 5 of R108 (check 1, a known opcode, holds of every `Instr`). -/
def Instr.wellFormed (i : Instr) : Bool := i.operandsInDomain && i.readSizeOk && i.textFits && i.textClean

end Sys2Proof
end

