-- ==== Sys2Proof/Machine/State.lean ====
section
/-! DEFINITION. The state of the marshaller (the table of R20, complete by that rule), the state of the Transport and the host
that the block meets only through its calls (R37, R38), the reasons a step can stop, and the state after reset (R39).
All of it is plain data. -/

namespace Sys2Proof.Machine

/-- A byte buffer: address and byte pairs, addresses strictly rising, no listed byte equal to what an unlisted address reads
as (`Memory.wf`, Machine/Ops.lean). -/
abbrev Memory := List Host.Cell

/-- PH, the phase register: exactly nine values (R26). -/
inductive Phase where
  | idle | discard | encode | write | settle | read | decode | reconf | done
deriving DecidableEq, Repr

/-- S, the session state register: exactly three values (R31). -/
inductive Session where
  | idle | awaitingHandshake | ready
deriving DecidableEq, Repr

/-- RES_ERR, the error kinds (R33, R230). -/
inductive ErrorKind where
  | noError | encodingError | transportError | timeoutShortRead | unexpectedReply
deriving DecidableEq, Repr

/-- RES_KIND, the response variants (R33). -/
inductive ResponseKind where
  | none | acknowledged | textStatus | singleByteValue | colorPair | numericAscii | timeout
deriving DecidableEq, Repr

/-- Which operand registers the host wrote at the issue of the command in progress; the others hold no value (R25, log
entry 9). For STR it is the number of characters written. -/
structure Written where
  x0 : Bool
  x1 : Bool
  x2 : Bool
  x3 : Bool
  x4 : Bool
  x5 : Bool
  rate : Bool
  slen : Bool
  str : Nat
  nread : Bool
deriving DecidableEq, Repr

/-- The command latch and the operand registers (R20 to R25). -/
structure Latch where
  op : Byte
  x0 : Word16
  x1 : Word16
  x2 : Word16
  x3 : Word16
  x4 : Word16
  x5 : Word16
  rate : Word32
  slen : Word16
  str : Memory
  nread : BitVec 4
  written : Written
deriving DecidableEq, Repr

/-- The codec's registers: FB, FLEN, CK and the byte index IDX (R27 to R29). -/
structure Codec where
  fb : Memory
  flen : Word16
  ck : Byte
  idx : BitVec 11
deriving DecidableEq, Repr

/-- The reply side: RB, REXP, RCNT (R30). -/
structure Reply where
  rb : Memory
  rexp : BitVec 4
  rcnt : BitVec 4
deriving DecidableEq, Repr

/-- The result registers RES_* (R33). -/
structure Result where
  valid : Bool
  ok : Bool
  err : ErrorKind
  seq : Bool
  kind : ResponseKind
  b0 : Byte
  b1 : Byte
  e0 : Byte
  e1 : Byte
  dom : Bool
  num : Word32
deriving DecidableEq, Repr

/-- One Transport call (or settle wait) of the block, with its arguments and its answer (R16, R285). A read that ended in an
I/O error has the answer none. -/
inductive Event where
  | discard
  | write (frame : List Byte) (answer : WriteAnswer)
  | settle (interval : Nat)
  | read (n : Nat) (timeout : Nat) (answer : Option (List Byte))
  | configureBaudRate (rate : Word32)
deriving DecidableEq, Repr

/-- What the host writes at the command port at one issue, register by register: OP always, the other registers as the host
chooses (R130). -/
structure RawIssue where
  op : Byte
  x0 : Option Word16 := none
  x1 : Option Word16 := none
  x2 : Option Word16 := none
  x3 : Option Word16 := none
  x4 : Option Word16 := none
  x5 : Option Word16 := none
  rate : Option Word32 := none
  slen : Option Word16 := none
  str : Option (List Byte) := none
  nread : Option (BitVec 4) := none
deriving DecidableEq, Repr

/-- A move of the host (R286). `issue` hands a command over as a value and the block runs it to its end in one step (R19,
R149); `issueRaw` writes the registers of the port and the block walks its phases, one a step (R130, R131); `wait` lets one
step pass; `reset` resets the block at any time (log entries 1 and 6). `arrive` is no move of the host's own: the line hands
bytes to the Transport while no read is in progress (R236, R145; log entry 17). -/
inductive HostMove where
  | issue (i : Instr)
  | issueRaw (c : RawIssue)
  | wait
  | reset
  | arrive (bytes : List Byte)
deriving DecidableEq, Repr

/-- Host and Transport as the block meets them: the host's moves to come, the bytes buffered inbound, the Transport's answers
to come, the number of free values drawn, the line rate the block last set (none: as the caller opened it), and the record
of the calls made, newest first (R37, R38, R285; log entries 2, 6, 17 to 19). -/
structure Env where
  moves : List HostMove
  inbound : List Byte
  writeAnswers : List WriteAnswer
  readAnswers : List ReadAnswer
  draws : Nat
  lineRate : Option Word32
  trace : List Event
deriving DecidableEq, Repr

/-- The whole state: the registers and buffers of R20, grouped, and the block's surroundings. -/
structure State where
  latch : Latch
  ph : Phase
  seq : Bool
  codec : Codec
  reply : Reply
  session : Session
  result : Result
  env : Env
deriving DecidableEq, Repr

/-- Why a step stops. None of them is an error of the spec (those are results, R235); each is safe, since the model stops
where it does not go on. -/
inductive Fault where
  /-- Raised by `phaseStep` in PH_ENCODE (and PH_RECONF): the opcode reads an operand register that the host did not write at
  this issue, so it holds no value (R25, U14). Safe. -/
  | operandNotWritten
  /-- Raised by `exec` when PH is not PH_IDLE: the command port is not ready and an issue has no step (R130, U12). Safe:
  `step` never does it, the move stays pending. -/
  | portNotReady
  /-- Raised by `phaseStep`: PH stands at a phase the spec gives the opcode of the transaction no rule for (R134, R140, R148);
  only in states no run from reset reaches. Safe. -/
  | phaseWithoutRule
  /-- Raised by `phaseStep`: an address at or above the size of FB or RB (R60, R62); only in states no run from reset
  reaches. Safe. -/
  | bufferAddress
deriving DecidableEq, Repr

/-- Why an instruction is refused. -/
inductive Refusal where
  /-- Raised by `exec` for an instruction without a meaning; safe. No arm of this model does it. -/
  | notModelled (mnemonic : String)
deriving DecidableEq, Repr

/-- No operand register holds a value yet (R25). -/
def Written.nothing : Written :=
  { x0 := false, x1 := false, x2 := false, x3 := false, x4 := false, x5 := false,
    rate := false, slen := false, str := 0, nread := false }

/-- The state right after reset (R39, R270). The registers R39 calls unspecified hold 0 and the buffers list nothing: the
model's choice (log entries 4 and 5). No Transport call has been made, the host has made no move. -/
def State.reset : State where
  latch :=
    { op := 0, x0 := 0, x1 := 0, x2 := 0, x3 := 0, x4 := 0, x5 := 0, rate := 0, slen := 0, str := [], nread := 0,
      written := Written.nothing }
  ph := .idle
  seq := false
  codec := { fb := [], flen := 0, ck := 0, idx := 0 }
  reply := { rb := [], rexp := 0, rcnt := 0 }
  session := .idle
  result :=
    { valid := false, ok := false, err := .noError, seq := false, kind := .none,
      b0 := 0, b1 := 0, e0 := 0, e1 := 0, dom := false, num := 0 }
  env := { moves := [], inbound := [], writeAnswers := [], readAnswers := [], draws := 0, lineRate := none, trace := [] }

end Sys2Proof.Machine
end

