-- ==== Sys2Proof/Machine/Flags.lean ====
section
/-! DEFINITION. The result registers and their flags (RES_OK, RES_DOM, RES_ERR, R33, R34): the reply decoders R141 to R145,
the writing of an outcome R139, and the numeric codes of the enumerated registers (R26, R31, R33). -/

namespace Sys2Proof.Machine

/-! ## Register codes -/

/-- The code of a phase (R26). -/
def Phase.code : Phase → BitVec 4
  | .idle => 0 | .discard => 1 | .encode => 2 | .write => 3 | .settle => 4 | .read => 5 | .decode => 6 | .reconf => 7
  | .done => 8

/-- The code of a session state (R31). -/
def Session.code : Session → BitVec 2
  | .idle => 0 | .awaitingHandshake => 1 | .ready => 2

/-- The code of an error kind in RES_ERR (R33, R230). -/
def ErrorKind.code : ErrorKind → BitVec 3
  | .noError => 0 | .encodingError => 1 | .transportError => 2 | .timeoutShortRead => 3 | .unexpectedReply => 4

/-- The code of a response variant in RES_KIND (R33). -/
def ResponseKind.code : ResponseKind → BitVec 3
  | .none => 0 | .acknowledged => 1 | .textStatus => 2 | .singleByteValue => 3 | .colorPair => 4 | .numericAscii => 5
  | .timeout => 6

/-! ## Outcomes -/

/-- What a reply decoder says about the response registers; a register it does not name is 0 (R139). -/
structure Response where
  kind : ResponseKind := .none
  b0 : Byte := 0
  b1 : Byte := 0
  e0 : Byte := 0
  e1 : Byte := 0
  dom : Bool := false
  num : Word32 := 0
deriving DecidableEq, Repr

/-- The outcome of a transaction: `Ok(response)` or `Fail(kind, response)` (R138). -/
inductive TxOut where
  | ok (r : Response)
  | fail (k : ErrorKind) (r : Response)
deriving DecidableEq, Repr

/-- The transaction succeeded. -/
def TxOut.isOk : TxOut → Bool
  | .ok _ => true
  | .fail _ _ => false

/-- The result registers after an outcome (R139). On a failure RES_E0, RES_E1, RES_NUM and RES_DOM are 0; RES_VALID is not
written here. -/
def TxOut.record (seq : Bool) (r : Result) : TxOut → Result
  | .ok p =>
    { valid := r.valid, ok := true, err := .noError, seq := false, kind := p.kind, b0 := p.b0, b1 := p.b1,
      e0 := p.e0, e1 := p.e1, dom := p.dom, num := p.num }
  | .fail k p =>
    { valid := r.valid, ok := false, err := k, seq := seq, kind := p.kind, b0 := p.b0, b1 := p.b1,
      e0 := 0, e1 := 0, dom := false, num := 0 }

/-! ## The reply decoders, on the bytes RB[0 .. RCNT-1] -/

/-- The byte at an offset of a reply, 0 where none was received (R141 to R144). -/
def replyByte (rb : List Byte) (i : Nat) : Byte := rb.getD i 0

/-- A reply too short for its shape (R233): the one byte received, if any, is kept. -/
def shortReply (rb : List Byte) : TxOut := .fail .timeoutShortRead { kind := .timeout, b0 := replyByte rb 0 }

/-- `DecodeAck` (R141): exactly the bytes of ASCII OK. -/
def decodeAck (rb : List Byte) : TxOut :=
  if rb.length < 2 then shortReply rb
  else if replyByte rb 0 = 0x4F ∧ replyByte rb 1 = 0x4B then
    .ok { kind := .acknowledged, b0 := 0x4F, b1 := 0x4B, dom := true }
  else .fail .unexpectedReply { kind := .textStatus, b0 := replyByte rb 0, b1 := replyByte rb 1 }

/-- A reply byte lies in a domain (R112). -/
def byteInDomain (d : Domain) (b : Byte) : Bool := inDomain d (b.setWidth 16)

/-- The permissive decode of a value byte: the byte itself, or the lowest-ordinal member (R112, R142). -/
def typedByte (d : Domain) (b : Byte) : Byte := if byteInDomain d b then b else d.lowest

/-- `DecodeByte` (R142). -/
def decodeByte (d : Domain) (rb : List Byte) : TxOut :=
  if rb.length < 1 then shortReply rb
  else
    .ok { kind := .singleByteValue, b0 := replyByte rb 0, e0 := typedByte d (replyByte rb 0),
          dom := byteInDomain d (replyByte rb 0) }

/-- `DecodeColorPair` (R143): the drawing colour first. -/
def decodeColorPair (rb : List Byte) : TxOut :=
  if rb.length < 2 then shortReply rb
  else
    .ok { kind := .colorPair, b0 := replyByte rb 0, b1 := replyByte rb 1,
          e0 := typedByte .color (replyByte rb 0), e1 := typedByte .color (replyByte rb 1),
          dom := byteInDomain .color (replyByte rb 0) && byteInDomain .color (replyByte rb 1) }

/-- An ASCII digit (R17). -/
def isDigit (b : Byte) : Bool := 0x30 ≤ b.toNat && b.toNat ≤ 0x39

/-- The decimal value of digits, most significant first, on naturals (R144, R151). -/
def decimal (digits : List Byte) : Nat := digits.foldl (fun v b => v * 10 + (b.toNat - 0x30)) 0

/-- `DecodeNumericAscii` (R144): the longest leading run of digits; what follows is ignored. -/
def decodeNumericAscii (rb : List Byte) : TxOut :=
  if rb.length < 1 then .fail .timeoutShortRead { kind := .timeout }
  else if (rb.takeWhile isDigit).length = 0 then
    .fail .unexpectedReply { kind := .textStatus, b0 := replyByte rb 0, b1 := replyByte rb 1 }
  else
    .ok { kind := .numericAscii, b0 := replyByte rb 0, b1 := replyByte rb 1, dom := true,
          num := BitVec.ofNat 32 (decimal (rb.takeWhile isDigit)) }

/-- Shape None: the response when nothing is read (R145). -/
def noReply : TxOut := .ok { kind := .none, dom := true }

/-- The decoder of each reply shape (R137, R140). -/
def decodeReply (shape : Shape) (rb : List Byte) : TxOut :=
  match shape with
  | .ack => decodeAck rb
  | .byte d => decodeByte d rb
  | .colorPair => decodeColorPair rb
  | .numericAscii => decodeNumericAscii rb
  | .none => noReply

end Sys2Proof.Machine
end

