-- ==== Sys2Proof/Machine/Ops.lean ====
section
/-! DEFINITION. The shared operations: the byte buffers (20_memory), the in-place frame encoder (R107), the four Transport
calls (R16, R246), the parts of a transaction (R132 to R136), its end and its failure (R138, R139, R238, R240), and the
transaction as one function (R149). -/

namespace Sys2Proof.Machine

/-! ## Byte buffers (R60, R62, R63) -/

/-- What an unlisted address reads as: a byte nothing has written (log entry 5). -/
def Memory.unlisted : Byte := 0

/-- One byte of a buffer. -/
def Memory.read (m : Memory) (a : Nat) : Byte :=
  match m with
  | [] => Memory.unlisted
  | (c, v) :: rest => if a = c then v else Memory.read rest a

/-- One byte written, in canonical form: a byte equal to what an unlisted address reads as is not listed. -/
def Memory.write (m : Memory) (a : Nat) (b : Byte) : Memory :=
  match m with
  | [] => if b = Memory.unlisted then [] else [(a, b)]
  | (c, v) :: rest =>
    if a < c then (if b = Memory.unlisted then (c, v) :: rest else (a, b) :: (c, v) :: rest)
    else if a = c then (if b = Memory.unlisted then rest else (a, b) :: rest)
    else (c, v) :: Memory.write rest a b

/-- The canonical form from an address upward: strictly rising addresses, no byte that an unlisted address reads as. -/
def Memory.wfFrom (lo : Nat) (m : Memory) : Bool :=
  match m with
  | [] => true
  | (c, v) :: rest => lo ≤ c && v != Memory.unlisted && Memory.wfFrom (c + 1) rest

/-- The canonical form of a buffer. -/
def Memory.wf (m : Memory) : Bool := Memory.wfFrom 0 m

/-- Every listed address is below `n`, the size of the buffer. -/
def Memory.below (n : Nat) (m : Memory) : Bool := m.all (fun c => c.1 < n)

/-- Bytes written at rising addresses. -/
def Memory.writeBytes (m : Memory) (a : Nat) (bs : List Byte) : Memory :=
  match bs with
  | [] => m
  | b :: rest => Memory.writeBytes (m.write a b) (a + 1) rest

/-- `n` bytes from rising addresses. -/
def Memory.readBytes (m : Memory) (a n : Nat) : List Byte :=
  match n with
  | 0 => []
  | k + 1 => m.read a :: Memory.readBytes m (a + 1) k

/-- `MemWrite(addr, 2, v)` (R13, R60): big-endian. -/
def Memory.write16 (m : Memory) (a : Nat) (v : Word16) : Memory := m.writeBytes a (be16 v)

/-- `MemRead(addr, 2)` (R13, R60). -/
def Memory.read16 (m : Memory) (a : Nat) : Word16 := unbe16 (m.read a) (m.read (a + 1))

/-- `MemWrite(addr, 4, v)` (R13, R60): big-endian. -/
def Memory.write32 (m : Memory) (a : Nat) (v : Word32) : Memory := m.writeBytes a (be32 v)

/-- `MemRead(addr, 4)` (R13, R60). -/
def Memory.read32 (m : Memory) (a : Nat) : Word32 :=
  unbe32 (m.read a) (m.read (a + 1)) (m.read (a + 2)) (m.read (a + 3))

/-! ## The encoder in place (R107) -/

/-- `put(b)`: the byte goes to FB at IDX, into CK, and IDX moves on (R29, R107). -/
def Codec.put (c : Codec) (b : Byte) : Codec :=
  { c with fb := c.fb.write c.idx.toNat b, ck := c.ck ^^^ b, idx := c.idx + 1 }

/-- `FrameEncode(op, payload)` (R99, R107): none where the frame would exceed MAX_FRAME, and then nothing is written. -/
def frameEncode (op : Byte) (payload : List Byte) (c : Codec) : Option Codec :=
  if Config.overhead + payload.length > Config.maxFrame then none
  else
    let start : Codec :=
      { c with flen := BitVec.ofNat 16 (Config.overhead + payload.length), ck := 0, idx := 0 }
    let filled := (frameBody op payload).foldl Codec.put start
    some { filled with fb := filled.fb.write filled.idx.toNat filled.ck }

/-- The frame that stands in FB, `FB[0 .. FLEN-1]` (R28, R61). -/
def Codec.frame (c : Codec) : List Byte := c.fb.readBytes 0 c.flen.toNat

/-! ## The Transport's calls (R16, R246; log entries 2, 17, 18) -/

/-- `T.discardBuffered()`: every byte buffered inbound is dropped, unread (R75, R132). -/
def Env.discardBuffered (e : Env) : Env := { e with inbound := [], trace := .discard :: e.trace }

/-- The next answer of `T.write`: the first one given, or a free value (R38, R247). -/
def Env.nextWrite (e : Env) : WriteAnswer × Env :=
  match e.writeAnswers with
  | a :: rest => (a, { e with writeAnswers := rest })
  | [] => (Config.freeWrite e.draws, { e with draws := e.draws + 1 })

/-- The next answer of `T.readExact`: the first one given, or a free value (R38, R247). -/
def Env.nextRead (e : Env) : ReadAnswer × Env :=
  match e.readAnswers with
  | a :: rest => (a, { e with readAnswers := rest })
  | [] => (Config.freeRead e.draws, { e with draws := e.draws + 1 })

/-- `T.write(bytes)`: one call with the whole frame (R72, R134). -/
def Env.write (frame : List Byte) (e : Env) : WriteAnswer × Env :=
  let p := e.nextWrite
  (p.1, { p.2 with trace := .write frame p.1 :: p.2.trace })

/-- The settle interval: a wait without a duration (R135, R244). -/
def Env.settle (o : Byte) (e : Env) : Env := { e with trace := .settle (Config.tSettle o) :: e.trace }

/-- `T.readExact(n, T_TIMEOUT(o))`: the first `k` bytes of the inbound stream in arrival order, for any `k` up to `n`,
however many are buffered; the others stay buffered (R74, R136, R147, R244, R247). None is `ioerr`. DESIGN CHOICE, safe:
what the buffer holds after `ioerr`, on which the spec is silent, is any bytes, given with the answer (log entry 25).
DESIGN CHOICE, safe: the spec gives the buffer neither a size nor an overflow rule; it has no bound here, and the answer
says how many buffered bytes were lost (log entry 17). -/
def Env.readExact (n : Nat) (o : Byte) (e : Env) : Option (List Byte) × Env :=
  let p := e.nextRead
  match p.1 with
  | .ioerr left =>
    (none, { p.2 with inbound := left, trace := .read n (Config.tTimeout o) none :: p.2.trace })
  | .arrived bs k lost =>
    let stream := p.2.inbound.drop lost ++ bs
    (some (stream.take (min k n)),
      { p.2 with
        inbound := stream.drop (min k n)
        trace := .read n (Config.tTimeout o) (some (stream.take (min k n))) :: p.2.trace })

/-- `T.configureBaudRate(rate)` (R249). -/
def Env.configureBaudRate (rate : Word32) (e : Env) : Env :=
  { e with lineRate := some rate, trace := .configureBaudRate rate :: e.trace }

/-- A free value for IDX after PH_WRITE (R27, log entry 3). -/
def State.freeIdx (s : State) : State :=
  { s with
    codec := { s.codec with idx := Config.freeIdx s.env.draws }
    env := { s.env with draws := s.env.draws + 1 } }

/-! ## The parts of a transaction, `o` its opcode (R132 to R136) -/

/-- What PH_DISCARD does: a Handshake moves S to AwaitingHandshake, then the discard (R32, R132). -/
def State.beginTransaction (o : Byte) (s : State) : State :=
  { s with
    session := if o = 0x00 then .awaitingHandshake else s.session
    env := s.env.discardBuffered }

/-- What PH_WRITE does: the frame in FB goes out in one call (R134). -/
def State.sendFrame (s : State) : WriteAnswer × State :=
  let p := s.env.write s.codec.frame
  (p.1, State.freeIdx { s with env := p.2 })

/-- What PH_SETTLE does (R135). -/
def State.settle (o : Byte) (s : State) : State := { s with env := s.env.settle o }

/-- What PH_READ does: REXP, then the read; RB and RCNT only if it answered bytes (R136). -/
def State.readReply (o : Byte) (n : Nat) (s : State) : Option (List Byte) × State :=
  let p := s.env.readExact n o
  match p.1 with
  | none => (none, { s with reply := { s.reply with rexp := BitVec.ofNat 4 n }, env := p.2 })
  | some bs =>
    (some bs,
      { s with
        reply := { rb := s.reply.rb.writeBytes 0 bs, rexp := BitVec.ofNat 4 n, rcnt := BitVec.ofNat 4 bs.length }
        env := p.2 })

/-- The bytes a decoder reads, `RB[0 .. RCNT-1]` (R30, R137). -/
def Reply.bytes (r : Reply) : List Byte := r.rb.readBytes 0 r.rcnt.toNat

/-! ## The end of a transaction (R138, R139) -/

/-- S at the end of a transaction: only a Handshake moves it (R32, R138). -/
def State.settleSession (o : Byte) (out : TxOut) (s : State) : State :=
  { s with session := if o = 0x00 then (if out.isOk then .ready else .idle) else s.session }

/-- The result registers are written from the outcome, RES_SEQ from SEQ on a failure (R139). -/
def State.recordOutcome (out : TxOut) (s : State) : State := { s with result := out.record s.seq s.result }

/-- The opcode of the transaction in progress (R131). -/
def State.txOpcode (s : State) : Byte := if s.seq then 0x00 else s.latch.op

/-- The follow-up Handshake of a ClearScreen whose own transaction failed: its outcome is not recorded (R148). DESIGN CHOICE,
safe: the spec gives no register that holds how the first transaction ended; the register view reads RES_ERR, which that
transaction wrote and which is no flag (R34; log entry 26). -/
def State.keepsFirst (s : State) : Bool := s.seq && s.latch.op == 0x2E && s.result.err != .noError

/-- The end of a transaction in the register view (R138): S, the result registers, and on to the Handshake of a ClearScreen
(with SEQ set, R148) or to PH_DONE. -/
def State.endTransaction (out : TxOut) (s : State) : State :=
  { s with
    session := (s.settleSession s.txOpcode out).session
    result := if s.keepsFirst then s.result else (s.recordOutcome out).result
    seq := s.seq || s.latch.op == 0x2E
    ph := if s.latch.op = 0x2E ∧ s.seq = false then .discard else .done }

/-- TAKING AN ERROR, `raise Kind(info)` (R14, R238): the transaction in progress ends with the kind; the result registers are
written, a failed Handshake takes S to Idle, and PH goes to PH_DONE (or on to the Handshake of a ClearScreen). Nothing else
is saved and no control is transferred. -/
def State.raiseError (k : ErrorKind) (r : Response) (s : State) : State := s.endTransaction (.fail k r)

/-- RETURNING (R138, R240): in PH_DONE the block sets RES_VALID and goes back to PH_IDLE. DEDUCED, unsafe only for a claim
about the state at PH_DONE itself: like every other phase PH_DONE is one step; no register could tell a first of two steps
from a second (R20), and no flag is read (R34; log entry 15). -/
def State.returnToIdle (s : State) : State := { s with ph := .idle, result := { s.result with valid := true } }

/-! ## The transaction as one function (R149) -/

/-- A transaction that ends in an outcome: S is settled, the outcome handed back. -/
def State.closeTransaction (o : Byte) (out : TxOut) (s : State) : State × TxOut := (s.settleSession o out, out)

/-- The encode of a command fails its checks: the discard has been done, nothing is written (R108, R231). -/
def encodingFailure (o : Byte) (s : State) : State × TxOut :=
  (s.beginTransaction o).closeTransaction o (.fail .encodingError {})

/-- The part of `Transaction` after the read has answered: decode (R149). -/
def afterRead (o : Byte) (shape : Shape) (p : Option (List Byte) × State) : State × TxOut :=
  match p.1 with
  | none => p.2.closeTransaction o (.fail .transportError {})
  | some bs => p.2.closeTransaction o (decodeReply shape bs)

/-- The part of `Transaction` after the write has answered (R149): on `ioerr` neither settle nor read (R134). -/
def afterWrite (o : Byte) (shape : Shape) (n : Nat) (p : WriteAnswer × State) : State × TxOut :=
  match p.1 with
  | .ioerr => p.2.closeTransaction o (.fail .transportError {})
  | .ok => if shape.reads then afterRead o shape ((p.2.settle o).readReply o n) else p.2.closeTransaction o noReply

/-- `Transaction(o, payload, shape, n)` (R149). -/
def transaction (o : Byte) (payload : List Byte) (shape : Shape) (n : Nat) (s : State) : State × TxOut :=
  let begun := s.beginTransaction o
  match frameEncode o payload begun.codec with
  | none => begun.closeTransaction o (.fail .encodingError {})
  | some c => afterWrite o shape n (State.sendFrame { begun with codec := c })

/-- The outcome of a transaction goes to the result registers. -/
def conclude (p : State × TxOut) : State := p.1.recordOutcome p.2

end Sys2Proof.Machine
end

