-- ==== Sys2Proof/Machine/Operands.lean ====
section
/-! DEFINITION. Operands: what the host writes at a command issue (R130), which registers a command reads (R100, R104), which
of them hold a value (R25), the payload built from the registers with the checks of R108, and the run of a command as a
value (R149). -/

namespace Sys2Proof.Machine

/-- SLEN of a string: its length; a string too long for 16 bits counts as 65535, which is refused like any string that long
(R23, R99; log entry 12). -/
def slenOf (str : List Byte) : Word16 := BitVec.ofNat 16 (min str.length 65535)

/-- The registers the host writes to issue a command: OP and every operand register the opcode reads (R100, R104, R130). -/
def rawOf : Instr → RawIssue
  | .handshake => { op := 0x00 }
  | .setBaudRate rate => { op := 0x01, rate := some rate }
  | .getBaudRate nread => { op := 0x02, nread := some nread }
  | .getStorageArea => { op := 0x06 }
  | .setStorageArea area => { op := 0x07, x0 := some area }
  | .enterSleep => { op := 0x08 }
  | .refresh => { op := 0x0A }
  | .getDisplayDirection => { op := 0x0C }
  | .setDisplayDirection dir => { op := 0x0D, x0 := some dir }
  | .importFontLibrary => { op := 0x0E }
  | .importImage => { op := 0x0F }
  | .setDrawingColor color background => { op := 0x10, x0 := some color, x1 := some background }
  | .getDrawingColor => { op := 0x11 }
  | .getEnglishFontSize => { op := 0x1C }
  | .getChineseFontSize => { op := 0x1D }
  | .setEnglishFontSize size => { op := 0x1E, x0 := some size }
  | .setChineseFontSize size => { op := 0x1F, x0 := some size }
  | .drawPoint x y => { op := 0x20, x0 := some x, x1 := some y }
  | .drawLine x0 y0 x1 y1 => { op := 0x22, x0 := some x0, x1 := some y0, x2 := some x1, x3 := some y1 }
  | .fillRectangle x0 y0 x1 y1 => { op := 0x24, x0 := some x0, x1 := some y0, x2 := some x1, x3 := some y1 }
  | .drawRectangle x0 y0 x1 y1 => { op := 0x25, x0 := some x0, x1 := some y0, x2 := some x1, x3 := some y1 }
  | .drawCircle x y r => { op := 0x26, x0 := some x, x1 := some y, x2 := some r }
  | .fillCircle x y r => { op := 0x27, x0 := some x, x1 := some y, x2 := some r }
  | .drawTriangle x0 y0 x1 y1 x2 y2 =>
    { op := 0x28, x0 := some x0, x1 := some y0, x2 := some x1, x3 := some y1, x4 := some x2, x5 := some y2 }
  | .fillTriangle x0 y0 x1 y1 x2 y2 =>
    { op := 0x29, x0 := some x0, x1 := some y0, x2 := some x1, x3 := some y1, x4 := some x2, x5 := some y2 }
  | .clearScreen => { op := 0x2E }
  | .displayText x y str => { op := 0x30, x0 := some x, x1 := some y, slen := some (slenOf str), str := some str }
  | .displayImage x y str => { op := 0x70, x0 := some x, x1 := some y, slen := some (slenOf str), str := some str }

/-- The latch after an issue: the registers the host wrote hold what it wrote, the others keep their content but hold no
value for this command (R25, R130). The marks are log entry 9. STR has room for MAX_STR bytes and takes
no more of a string (R23, R63; DESIGN CHOICE, unsafe, log entry 13), and a register the opcode does not read is latched too
(DEDUCED, safe, log entry 24). -/
def Latch.accept (l : Latch) (c : RawIssue) : Latch where
  op := c.op
  x0 := c.x0.getD l.x0
  x1 := c.x1.getD l.x1
  x2 := c.x2.getD l.x2
  x3 := c.x3.getD l.x3
  x4 := c.x4.getD l.x4
  x5 := c.x5.getD l.x5
  rate := c.rate.getD l.rate
  slen := c.slen.getD l.slen
  str := l.str.writeBytes 0 ((c.str.getD []).take Config.maxStr)
  nread := c.nread.getD l.nread
  written :=
    { x0 := c.x0.isSome, x1 := c.x1.isSome, x2 := c.x2.isSome, x3 := c.x3.isSome, x4 := c.x4.isSome, x5 := c.x5.isSome,
      rate := c.rate.isSome, slen := c.slen.isSome, str := ((c.str.getD []).take Config.maxStr).length,
      nread := c.nread.isSome }

/-- Command issue, one step of the block: the latch, RES_VALID, SEQ, and PH to PH_DISCARD (R130). -/
def State.issue (c : RawIssue) (s : State) : State :=
  { s with
    latch := s.latch.accept c
    ph := .discard
    seq := false
    result := { s.result with valid := false } }

/-! ## Reading the latch (R100, R108) -/

/-- The string operand, `STR[0 .. SLEN-1]` (R23). -/
def Latch.text (l : Latch) : List Byte := l.str.readBytes 0 l.slen.toNat

/-- Every register that a format makes PH_ENCODE read was written at this issue (R25). A string too long is refused before a
character or a coordinate is read, one with a 0x00 before a coordinate is read (R108, log entry 9). -/
def Latch.formatWritten (l : Latch) : Format → Bool
  | .p0 => true
  | .pe1 _ => l.written.x0
  | .pe2 _ _ => l.written.x0 && l.written.x1
  | .pr => l.written.rate
  | .pc2 => l.written.x0 && l.written.x1
  | .pc3 => l.written.x0 && l.written.x1 && l.written.x2
  | .pc4 => l.written.x0 && l.written.x1 && l.written.x2 && l.written.x3
  | .pc6 => l.written.x0 && l.written.x1 && l.written.x2 && l.written.x3 && l.written.x4 && l.written.x5
  | .ps =>
    l.written.slen &&
      (!stringFits l.slen.toNat ||
        (l.slen.toNat ≤ l.written.str && (!stringClean l.text || (l.written.x0 && l.written.x1))))

/-- Every operand register the opcode reads was written at this issue (R25); an unknown opcode reads none (R106). -/
def Latch.operandsWritten (l : Latch) : Bool :=
  match Opcode.ofByte l.op with
  | none => true
  | some o => l.formatWritten o.format && (o != .getBaudRate || l.written.nread)

/-- The payload of a format from the registers, none where a check of R108 fails: the domains, the length, the 0x00 (R100 to
R103). -/
def Latch.formatPayload (l : Latch) : Format → Option (List Byte)
  | .p0 => some []
  | .pe1 d => if inDomain d l.x0 then some (payloadE1 l.x0) else none
  | .pe2 d0 d1 => if inDomain d0 l.x0 && inDomain d1 l.x1 then some (payloadE2 l.x0 l.x1) else none
  | .pr => some (payloadR l.rate)
  | .pc2 => some (payloadC2 l.x0 l.x1)
  | .pc3 => some (payloadC3 l.x0 l.x1 l.x2)
  | .pc4 => some (payloadC4 l.x0 l.x1 l.x2 l.x3)
  | .pc6 => some (payloadC6 l.x0 l.x1 l.x2 l.x3 l.x4 l.x5)
  | .ps =>
    if !stringFits l.slen.toNat then none
    else if !stringClean l.text then none
    else some (payloadS l.x0 l.x1 l.text)

/-- `BuildPayload(cmd)` (R108): check 1 an opcode of the Command Set, check 3 the read size of GetBaudRate, the others by
format. None is EncodingError. -/
def Latch.buildPayload (l : Latch) : Option (List Byte) :=
  match Opcode.ofByte l.op with
  | none => none
  | some o => if o == .getBaudRate && !readSizeLegal l.nread then none else l.formatPayload o.format

/-! ## A command as a value (R19, R149) -/

/-- The end of a command: PH_DONE sets RES_VALID and the block is idle again (R138, R240). -/
def State.finish (s : State) : State := s.returnToIdle

/-- A command run to its end: issue (only at PH_IDLE, R130), its transactions, PH_DONE. -/
def runCommand (c : RawIssue) (body : State → State) (s : State) : Host.Outcome State Fault Refusal :=
  if s.ph = .idle then .next (State.finish (body (s.issue c))) else .fault .portNotReady

end Sys2Proof.Machine
end

