-- ==== Sys2Proof/Machine/Phases.lean ====
section
/-! DEFINITION. The block in the register view: one phase of the command in the latch per step (R131 to R138, R148). -/

namespace Sys2Proof.Machine

/-- The reply shape of the transaction in progress: Ack for an internal Handshake, else the opcode's (R140, R148). -/
def State.txShape (s : State) : Option Shape := if s.seq then some .ack else (Opcode.ofByte s.latch.op).map Opcode.shape

/-- The transaction in progress reads a reply (R134, R140). -/
def State.txReads (s : State) : Bool :=
  match s.txShape with
  | some shape => shape.reads
  | none => false

/-- `n(o)` of the transaction in progress (R136, R140). -/
def State.txCount (s : State) : Nat :=
  match s.txShape with
  | some shape => shape.count s.latch.nread
  | none => 0

/-- PH_DISCARD (R132). -/
def phDiscard (s : State) : State := { s.beginTransaction s.txOpcode with ph := .encode }

/-- The payload of the transaction in progress: that of the latch, or none at all for an internal Handshake (R133). -/
def State.txPayload (s : State) : Option (List Byte) := if s.seq then some [] else s.latch.buildPayload

/-- PH_ENCODE (R133). -/
def phEncode (s : State) : State :=
  match s.txPayload with
  | none => s.raiseError .encodingError {}
  | some payload =>
    match frameEncode s.txOpcode payload s.codec with
    | none => s.raiseError .encodingError {}
    | some c => { s with codec := c, ph := .write }

/-- PH_WRITE (R134): on `ioerr` the transaction fails; a SetBaudRate goes on to PH_RECONF, a frame without a reply ends, any
other goes on to PH_SETTLE. -/
def phWrite (s : State) : State :=
  let p := s.sendFrame
  match p.1 with
  | .ioerr => p.2.raiseError .transportError {}
  | .ok =>
    if s.seq = false ∧ s.latch.op = 0x01 then { p.2 with ph := .reconf }
    else if s.txReads then { p.2 with ph := .settle }
    else p.2.endTransaction noReply

/-- PH_SETTLE (R135). -/
def phSettle (s : State) : State := { s.settle s.txOpcode with ph := .read }

/-- PH_READ (R136). -/
def phRead (s : State) : State :=
  let p := s.readReply s.txOpcode s.txCount
  match p.1 with
  | none => p.2.raiseError .transportError {}
  | some _ => { p.2 with ph := .decode }

/-- PH_DECODE (R137). -/
def phDecode (s : State) : State := s.endTransaction (decodeReply (s.txShape.getD .none) s.reply.bytes)

/-- PH_RECONF (R148): the Transport's rate, then the internal Handshake. -/
def phReconf (s : State) : State :=
  { s with env := s.env.configureBaudRate s.latch.rate, seq := true, ph := .discard }

/-- One phase of the command in progress (R131). At PH_IDLE nothing is in progress. -/
def phase (s : State) : State :=
  match s.ph with
  | .idle => s
  | .discard => phDiscard s
  | .encode => phEncode s
  | .write => phWrite s
  | .settle => phSettle s
  | .read => phRead s
  | .decode => phDecode s
  | .reconf => phReconf s
  | .done => s.returnToIdle

/-- Where a phase has no step: an operand without a value (R25, U14), or a state no run reaches, in which PH stands at a phase
that has no rule for the opcode or a buffer would be addressed beyond its end (R60, R62; log entry 11). -/
def phaseGuard (s : State) : Option Fault :=
  match s.ph with
  | .encode => if s.seq || s.latch.operandsWritten then none else some .operandNotWritten
  | .write =>
    if s.txShape = none then some .phaseWithoutRule
    else if s.codec.flen.toNat ≤ Config.maxFrame then none
    else some .bufferAddress
  | .settle => if s.txReads then none else some .phaseWithoutRule
  | .read =>
    if !s.txReads then some .phaseWithoutRule
    else if s.txCount ≤ 9 then none
    else some .bufferAddress
  | .decode =>
    if !s.txReads then some .phaseWithoutRule
    else if s.reply.rcnt.toNat ≤ 9 then none
    else some .bufferAddress
  | .reconf =>
    if s.seq || s.latch.op != 0x01 then some .phaseWithoutRule
    else if s.latch.written.rate then none
    else some .operandNotWritten
  | .idle | .discard | .done => none

/-- One step of the block in the register view. -/
def phaseStep (s : State) : Host.Outcome State Fault Refusal :=
  match phaseGuard s with
  | some f => .fault f
  | none => .next (phase s)

/-- The block runs its phases until it is idle again, at most `fuel` of them. -/
def runToIdle (fuel : Nat) (s : State) : Host.Outcome State Fault Refusal :=
  match fuel with
  | 0 => .next s
  | k + 1 =>
    if s.ph = .idle then .next s
    else
      match phaseStep s with
      | .next t => runToIdle k t
      | .fault f => .fault f
      | .refused r => .refused r

end Sys2Proof.Machine
end

