-- ==== Sys2Proof/Machine/Attributes.lean ====
section
/-! DEFINITION. The drawing-attribute commands, opcodes 0x10 to 0x1F (42_attributes). -/

namespace Sys2Proof.Machine

/-- SetDrawingColor (R190): the drawing colour, then the background colour. -/
def execSetDrawingColor (color background : Word16) (s : State) : Host.Outcome State Fault Refusal :=
  runCommand (rawOf (.setDrawingColor color background))
    (fun s =>
      conclude
        (if inDomain .color color && inDomain .color background then
          transaction 0x10 (payloadE2 color background) .ack 2 s
        else encodingFailure 0x10 s))
    s

/-- GetDrawingColor (R191). -/
def execGetDrawingColor (s : State) : Host.Outcome State Fault Refusal :=
  runCommand (rawOf .getDrawingColor) (fun s => conclude (transaction 0x11 [] .colorPair 2 s)) s

/-- GetEnglishFontSize (R192). -/
def execGetEnglishFontSize (s : State) : Host.Outcome State Fault Refusal :=
  runCommand (rawOf .getEnglishFontSize) (fun s => conclude (transaction 0x1C [] (.byte .fontSize) 1 s)) s

/-- GetChineseFontSize (R193). -/
def execGetChineseFontSize (s : State) : Host.Outcome State Fault Refusal :=
  runCommand (rawOf .getChineseFontSize) (fun s => conclude (transaction 0x1D [] (.byte .fontSize) 1 s)) s

/-- SetEnglishFontSize (R194): the operand is the enumeration code. -/
def execSetEnglishFontSize (size : Word16) (s : State) : Host.Outcome State Fault Refusal :=
  runCommand (rawOf (.setEnglishFontSize size))
    (fun s =>
      conclude
        (if inDomain .fontSize size then transaction 0x1E (payloadE1 size) .ack 2 s else encodingFailure 0x1E s))
    s

/-- SetChineseFontSize (R195). -/
def execSetChineseFontSize (size : Word16) (s : State) : Host.Outcome State Fault Refusal :=
  runCommand (rawOf (.setChineseFontSize size))
    (fun s =>
      conclude
        (if inDomain .fontSize size then transaction 0x1F (payloadE1 size) .ack 2 s else encodingFailure 0x1F s))
    s

end Sys2Proof.Machine
end

