-- ==== Sys2Proof/Machine/Drawing.lean ====
section
/-! DEFINITION. The drawing commands, opcodes 0x20 to 0x2E (43_drawing). Every operand value is accepted. -/

namespace Sys2Proof.Machine

/-- DrawPoint (R200). -/
def execDrawPoint (x y : Word16) (s : State) : Host.Outcome State Fault Refusal :=
  runCommand (rawOf (.drawPoint x y)) (fun s => conclude (transaction 0x20 (payloadC2 x y) .ack 2 s)) s

/-- DrawLine (R201). -/
def execDrawLine (x0 y0 x1 y1 : Word16) (s : State) : Host.Outcome State Fault Refusal :=
  runCommand (rawOf (.drawLine x0 y0 x1 y1)) (fun s => conclude (transaction 0x22 (payloadC4 x0 y0 x1 y1) .ack 2 s)) s

/-- FillRectangle (R202): no order of the corners is required. -/
def execFillRectangle (x0 y0 x1 y1 : Word16) (s : State) : Host.Outcome State Fault Refusal :=
  runCommand (rawOf (.fillRectangle x0 y0 x1 y1))
    (fun s => conclude (transaction 0x24 (payloadC4 x0 y0 x1 y1) .ack 2 s)) s

/-- DrawRectangle (R203). -/
def execDrawRectangle (x0 y0 x1 y1 : Word16) (s : State) : Host.Outcome State Fault Refusal :=
  runCommand (rawOf (.drawRectangle x0 y0 x1 y1))
    (fun s => conclude (transaction 0x25 (payloadC4 x0 y0 x1 y1) .ack 2 s)) s

/-- DrawCircle (R204): centre and radius. -/
def execDrawCircle (x y r : Word16) (s : State) : Host.Outcome State Fault Refusal :=
  runCommand (rawOf (.drawCircle x y r)) (fun s => conclude (transaction 0x26 (payloadC3 x y r) .ack 2 s)) s

/-- FillCircle (R205). -/
def execFillCircle (x y r : Word16) (s : State) : Host.Outcome State Fault Refusal :=
  runCommand (rawOf (.fillCircle x y r)) (fun s => conclude (transaction 0x27 (payloadC3 x y r) .ack 2 s)) s

/-- DrawTriangle (R206): the three vertices. -/
def execDrawTriangle (x0 y0 x1 y1 x2 y2 : Word16) (s : State) : Host.Outcome State Fault Refusal :=
  runCommand (rawOf (.drawTriangle x0 y0 x1 y1 x2 y2))
    (fun s => conclude (transaction 0x28 (payloadC6 x0 y0 x1 y1 x2 y2) .ack 2 s)) s

/-- FillTriangle (R207). -/
def execFillTriangle (x0 y0 x1 y1 x2 y2 : Word16) (s : State) : Host.Outcome State Fault Refusal :=
  runCommand (rawOf (.fillTriangle x0 y0 x1 y1 x2 y2))
    (fun s => conclude (transaction 0x29 (payloadC6 x0 y0 x1 y1 x2 y2) .ack 2 s)) s

/-- The internal Handshake that folds into a ClearScreen whose own transaction ended in `out1` (R148, R208). -/
def foldHandshake (out1 : TxOut) (s : State) : State :=
  let p := transaction 0x00 [] .ack 2 { s.recordOutcome out1 with seq := true }
  if out1.isOk then conclude p else p.1

/-- ClearScreen (R208), composite: the Handshake always runs; the first failure is the one reported. -/
def execClearScreen (s : State) : Host.Outcome State Fault Refusal :=
  runCommand (rawOf .clearScreen)
    (fun s =>
      let p := transaction 0x2E [] .ack 2 s
      foldHandshake p.2 p.1)
    s

end Sys2Proof.Machine
end

