-- ==== Sys2Proof/Machine/SystemConfig.lean ====
section
/-! DEFINITION. The system and configuration commands, opcodes 0x00 to 0x0F (41_system_config). -/

namespace Sys2Proof.Machine

/-- Handshake (R170): moves S. -/
def execHandshake (s : State) : Host.Outcome State Fault Refusal :=
  runCommand (rawOf .handshake) (fun s => conclude (transaction 0x00 [] .ack 2 s)) s

/-- What SetBaudRate does once its frame is written: PH_RECONF, then the Handshake whose outcome is the command's (R171,
R148). -/
def reconfigureAndVerify (rate : Word32) (s : State) : State :=
  conclude (transaction 0x00 [] .ack 2 { s with env := s.env.configureBaudRate rate, seq := true })

/-- SetBaudRate (R171), composite: no settle and no read for its own frame. -/
def execSetBaudRate (rate : Word32) (s : State) : Host.Outcome State Fault Refusal :=
  runCommand (rawOf (.setBaudRate rate))
    (fun s =>
      let p := transaction 0x01 (payloadR rate) .none 0 s
      if p.2.isOk then reconfigureAndVerify rate p.1 else conclude p)
    s

/-- GetBaudRate (R172): the read size is checked after the discard. -/
def execGetBaudRate (nread : BitVec 4) (s : State) : Host.Outcome State Fault Refusal :=
  runCommand (rawOf (.getBaudRate nread))
    (fun s =>
      conclude
        (if readSizeLegal nread then transaction 0x02 [] .numericAscii nread.toNat s else encodingFailure 0x02 s))
    s

/-- GetStorageArea (R173): whatever byte arrives is surfaced. -/
def execGetStorageArea (s : State) : Host.Outcome State Fault Refusal :=
  runCommand (rawOf .getStorageArea) (fun s => conclude (transaction 0x06 [] (.byte .storageArea) 1 s)) s

/-- SetStorageArea (R174). -/
def execSetStorageArea (area : Word16) (s : State) : Host.Outcome State Fault Refusal :=
  runCommand (rawOf (.setStorageArea area))
    (fun s =>
      conclude
        (if inDomain .storageArea area then transaction 0x07 (payloadE1 area) .ack 2 s else encodingFailure 0x07 s))
    s

/-- EnterSleep (R175): nothing is read. -/
def execEnterSleep (s : State) : Host.Outcome State Fault Refusal :=
  runCommand (rawOf .enterSleep) (fun s => conclude (transaction 0x08 [] .none 0 s)) s

/-- Refresh (R176). -/
def execRefresh (s : State) : Host.Outcome State Fault Refusal :=
  runCommand (rawOf .refresh) (fun s => conclude (transaction 0x0A [] .ack 2 s)) s

/-- GetDisplayDirection (R177). -/
def execGetDisplayDirection (s : State) : Host.Outcome State Fault Refusal :=
  runCommand (rawOf .getDisplayDirection) (fun s => conclude (transaction 0x0C [] (.byte .displayDirection) 1 s)) s

/-- SetDisplayDirection (R178). -/
def execSetDisplayDirection (dir : Word16) (s : State) : Host.Outcome State Fault Refusal :=
  runCommand (rawOf (.setDisplayDirection dir))
    (fun s =>
      conclude
        (if inDomain .displayDirection dir then transaction 0x0D (payloadE1 dir) .ack 2 s else encodingFailure 0x0D s))
    s

/-- ImportFontLibrary (R179). -/
def execImportFontLibrary (s : State) : Host.Outcome State Fault Refusal :=
  runCommand (rawOf .importFontLibrary) (fun s => conclude (transaction 0x0E [] .ack 2 s)) s

/-- ImportImage (R180). -/
def execImportImage (s : State) : Host.Outcome State Fault Refusal :=
  runCommand (rawOf .importImage) (fun s => conclude (transaction 0x0F [] .ack 2 s)) s

end Sys2Proof.Machine
end

