-- ==== Sys2Proof/Machine/TextImage.lean ====
section
/-! DEFINITION. The text and image commands, opcodes 0x30 and 0x70 (44_text_image). -/

namespace Sys2Proof.Machine

/-- DisplayText (R215): the length check comes first, then the 0x00 check; a string is never cut. -/
def execDisplayText (x y : Word16) (str : List Byte) (s : State) : Host.Outcome State Fault Refusal :=
  runCommand (rawOf (.displayText x y str))
    (fun s =>
      conclude
        (if !stringFits str.length then encodingFailure 0x30 s
        else if !stringClean str then encodingFailure 0x30 s
        else transaction 0x30 (payloadS x y str) .ack 2 s))
    s

/-- DisplayImage (R216): the string is a file name, of which the block checks no form. -/
def execDisplayImage (x y : Word16) (str : List Byte) (s : State) : Host.Outcome State Fault Refusal :=
  runCommand (rawOf (.displayImage x y str))
    (fun s =>
      conclude
        (if !stringFits str.length then encodingFailure 0x70 s
        else if !stringClean str then encodingFailure 0x70 s
        else transaction 0x70 (payloadS x y str) .ack 2 s))
    s

end Sys2Proof.Machine
end

