-- ==== Sys2Proof/Machine/Dispatch.lean ====
section
/-! DEFINITION. The dispatch of a command to its meaning, one arm per constructor of Instr. -/

namespace Sys2Proof.Machine

def exec (i : Instr) (s : State) : Host.Outcome State Fault Refusal :=
  match i with
  | .handshake => Sys2Proof.Machine.execHandshake s
  | .setBaudRate rate => Sys2Proof.Machine.execSetBaudRate rate s
  | .getBaudRate nread => Sys2Proof.Machine.execGetBaudRate nread s
  | .getStorageArea => Sys2Proof.Machine.execGetStorageArea s
  | .setStorageArea area => Sys2Proof.Machine.execSetStorageArea area s
  | .enterSleep => Sys2Proof.Machine.execEnterSleep s
  | .refresh => Sys2Proof.Machine.execRefresh s
  | .getDisplayDirection => Sys2Proof.Machine.execGetDisplayDirection s
  | .setDisplayDirection dir => Sys2Proof.Machine.execSetDisplayDirection dir s
  | .importFontLibrary => Sys2Proof.Machine.execImportFontLibrary s
  | .importImage => Sys2Proof.Machine.execImportImage s
  | .setDrawingColor color background => Sys2Proof.Machine.execSetDrawingColor color background s
  | .getDrawingColor => Sys2Proof.Machine.execGetDrawingColor s
  | .getEnglishFontSize => Sys2Proof.Machine.execGetEnglishFontSize s
  | .getChineseFontSize => Sys2Proof.Machine.execGetChineseFontSize s
  | .setEnglishFontSize size => Sys2Proof.Machine.execSetEnglishFontSize size s
  | .setChineseFontSize size => Sys2Proof.Machine.execSetChineseFontSize size s
  | .drawPoint x y => Sys2Proof.Machine.execDrawPoint x y s
  | .drawLine x0 y0 x1 y1 => Sys2Proof.Machine.execDrawLine x0 y0 x1 y1 s
  | .fillRectangle x0 y0 x1 y1 => Sys2Proof.Machine.execFillRectangle x0 y0 x1 y1 s
  | .drawRectangle x0 y0 x1 y1 => Sys2Proof.Machine.execDrawRectangle x0 y0 x1 y1 s
  | .drawCircle x y r => Sys2Proof.Machine.execDrawCircle x y r s
  | .fillCircle x y r => Sys2Proof.Machine.execFillCircle x y r s
  | .drawTriangle x0 y0 x1 y1 x2 y2 => Sys2Proof.Machine.execDrawTriangle x0 y0 x1 y1 x2 y2 s
  | .fillTriangle x0 y0 x1 y1 x2 y2 => Sys2Proof.Machine.execFillTriangle x0 y0 x1 y1 x2 y2 s
  | .clearScreen => Sys2Proof.Machine.execClearScreen s
  | .displayText x y str => Sys2Proof.Machine.execDisplayText x y str s
  | .displayImage x y str => Sys2Proof.Machine.execDisplayImage x y str s

end Sys2Proof.Machine
end

