-- ==== Sys2Proof/Machine/Port.lean ====
section
/-! DEFINITION. The command port and the host's moves at it (R130, R286). -/

namespace Sys2Proof.Machine

/-- The state without the host's first move. -/
def State.popMove (s : State) : State := { s with env := { s.env with moves := s.env.moves.tail } }

/-- Bytes arrive while no read is in progress: they raise nothing and sit behind the ones already buffered (R236, R37). -/
def State.arrive (bs : List Byte) (s : State) : State :=
  { s with env := { s.env with inbound := s.env.inbound ++ bs } }

/-- Reset of the block, "construction" (R39, R270): every register of the block at its reset value; the Transport, the
controller and what was already sent stay as they were (R271, log entry 16). -/
def State.resetBlock (s : State) : State := { State.reset with env := s.env }

/-- The host's move for a table word: the issue of the command the reference decoder reads from it. Two words that decoder
refuses can still be issued at the command port, where they end in EncodingError: an operand outside its domain (R102), with
the fields read back, and an opcode outside the Command Set (R106). None where the word is no frame (log entry 6). -/
def fetchMove (nbits w : Nat) : Option HostMove :=
  match frameDecode (tableFrame nbits w) with
  | .ok i => some (.issue i)
  | .error .badOperand =>
    match decode (tableFrame nbits w) with
    | .ok i => some (.issue i)
    | .error _ => none
  | .error .unknownOpcode => some (.issueRaw { op := tableByte (w % 2 ^ nbits) 3 })
  | .error _ => none

end Sys2Proof.Machine
end

