-- ==== Sys2Proof/Machine/Step.lean ====
section
/-! DEFINITION. One step of the machine. The block fetches no instructions (R15, R26): its next command is the one the host
issues at the command port, so the host's list of moves stands where another machine has a program counter (log entries 1
and 6). -/

namespace Sys2Proof.Machine

/-- One step. At PH_IDLE the host's next move is taken: a command handed over as a value runs to its end, one written register
by register is issued, and without a move the block waits (R270). While a command is in progress the port is not ready: a
pending issue stays pending and the block does its next phase (R130; log entry 10). A reset is taken at any time (R286), and
so are bytes that arrive on the Transport (R236). -/
def step (s : State) : Host.Outcome State Fault Refusal :=
  match s.env.moves with
  | .reset :: _ => .next s.popMove.resetBlock
  | .arrive bs :: _ => .next (s.popMove.arrive bs)
  | .wait :: _ => phaseStep s.popMove
  | .issue i :: _ => if s.ph = .idle then exec i s.popMove else phaseStep s
  | .issueRaw c :: _ => if s.ph = .idle then .next (s.popMove.issue c) else phaseStep s
  | [] => phaseStep s

/-- The state whose next step runs the command of a table word: it is the host's next move, and the port is ready. -/
def State.withFetchWord (s : State) (nbits w : Nat) : State :=
  match fetchMove nbits w with
  | some m => { s with ph := .idle, env := { s.env with moves := m :: s.env.moves } }
  | none => s

end Sys2Proof.Machine
end

