-- ==== Sys2Proof/Safety.lean ====
section
/-! DEFINITION. What the claims call a sound state: the invariant every step keeps, in named parts, and what the record of
the Transport calls must satisfy. All of it is decidable. -/

namespace Sys2Proof.Machine

/-- The three buffers are in canonical form and within their sizes (R60, R62, R63). The sizes of FB and STR are the model's
choice: 1033 and 1019 bytes (log entry 13, DESIGN CHOICE). -/
def State.buffersOk (s : State) : Bool :=
  s.codec.fb.wf && s.codec.fb.below Config.maxFrame && s.reply.rb.wf && s.reply.rb.below 9 &&
    s.latch.str.wf && s.latch.str.below Config.maxStr

/-- FLEN, REXP and RCNT stay within the buffers they count (R28, R30). -/
def State.countersOk (s : State) : Bool :=
  s.codec.flen.toNat ≤ Config.maxFrame && s.reply.rexp.toNat ≤ 9 && s.reply.rcnt.toNat ≤ 9

/-- PH stands inside a transaction whose encode has begun. -/
def Phase.midTransaction : Phase → Bool
  | .encode | .write | .settle | .read | .decode => true
  | .idle | .discard | .reconf | .done => false

/-- S is AwaitingHandshake exactly inside a Handshake transaction (R32). -/
def State.sessionOk (s : State) : Bool :=
  (s.session == .awaitingHandshake) == (s.txOpcode == 0x00 && s.ph.midTransaction)

/-- The result registers agree with each other (R33, R139, R151). -/
def Result.ok? (r : Result) : Bool :=
  if r.ok then r.err == .noError && !r.seq && r.num.toNat ≤ 999999999
  else r.e0 == 0 && r.e1 == 0 && !r.dom && r.num == 0

/-- A result that is valid, about to be, or recorded for the first transaction of a ClearScreen, carries NoError exactly on
success (R33, R139, R148). -/
def State.resultOk (s : State) : Bool :=
  s.result.ok? &&
    (!(s.result.valid || s.ph == .done || (s.seq && s.latch.op == 0x2E)) || (s.result.ok == (s.result.err == .noError)))

/-- RES_VALID is set only at PH_IDLE. R33 and R138 set it at PH_DONE; that the same step moves PH to PH_IDLE, so that no state
stands at PH_DONE with RES_VALID set, is the model's reading (log entry 15, DEDUCED). -/
def State.validOk (s : State) : Bool := !s.result.valid || s.ph == .idle

/-- SEQ is set only by the two composite commands (R27, R148). -/
def State.seqOk (s : State) : Bool := !s.seq || s.latch.op == 0x01 || s.latch.op == 0x2E

/-- Once encoded, a GetBaudRate has a legal read size and a SetBaudRate a rate (R24, R25). -/
def State.encodedOk (s : State) : Bool :=
  s.seq ||
    ((s.latch.op != 0x02 || readSizeLegal s.latch.nread) && (s.latch.op != 0x01 || s.latch.written.rate))

/-- PH stands only at a phase the opcode of the transaction has a rule for (R134, R140, R148). -/
def State.phaseOk (s : State) : Bool :=
  match s.ph with
  | .write => s.txShape.isSome && s.encodedOk
  | .settle | .read => s.txReads && s.encodedOk
  | .decode => s.txReads && s.encodedOk && s.reply.rcnt.toNat ≤ s.reply.rexp.toNat
  | .reconf => !s.seq && s.latch.op == 0x01 && s.latch.written.rate
  | .idle | .discard | .encode | .done => true

/-- The invariant. -/
def State.Inv (s : State) : Bool :=
  s.buffersOk && s.countersOk && s.sessionOk && s.resultOk && s.validOk && s.seqOk && s.phaseOk

/-- A byte sequence is a frame: the reference decoder accepts it (R110). -/
def isFrame (b : List Byte) : Bool :=
  match frameDecode b with
  | .ok _ => true
  | .error _ => false

/-- A recorded call carries a frame if it is a write. -/
def Event.frameOk : Event → Bool
  | .write f _ => isFrame f
  | .discard | .settle _ | .read _ _ _ | .configureBaudRate _ => true

/-- Everything the block has written to the Transport is a frame of the Command Set, and so is what stands in FB when it is
about to be written (R90, R106). -/
def State.framesOk (s : State) : Bool :=
  s.env.trace.all Event.frameOk && (s.ph != .write || isFrame s.codec.frame)

/-- The frames written to the Transport, oldest first (R285). -/
def State.framesSent (s : State) : List (List Byte) :=
  s.env.trace.reverse.filterMap (fun e => match e with
    | .write f _ => some f
    | .discard | .settle _ | .read _ _ _ | .configureBaudRate _ => none)

/-- Where a transaction that ends in a step from `s` to `t` goes on (R138, R148): the first one of a ClearScreen to the internal
Handshake, any other to PH_DONE. -/
def State.endsAt (s t : State) : Prop :=
  if s.latch.op = 0x2E ∧ s.seq = false then t.ph = .discard ∧ t.seq = true else t.ph = .done

/-! ## What a command leaves, written out

Used by the claims only: no meaning calls any of these. -/

/-- How the Transport answers the calls of one transaction. -/
inductive Exchange where
  /-- `T.write` answers `ioerr`. -/
  | writeError
  /-- `T.write` answers `ok`, and nothing is read (shape None). -/
  | noRead
  /-- `T.write` answers `ok`, `T.readExact` answers `ioerr` and leaves these bytes in the inbound buffer (log entry 25). -/
  | readError (left : List Byte)
  /-- `T.write` answers `ok`, and `T.readExact` hands over `got` (as many of them as it was asked for), whatever else arrived;
  the rest stays buffered. Since the discard emptied the buffer, a loss of `lost` bytes there has no effect. -/
  | reply (got : List Byte) (rest : List Byte := []) (lost : Nat := 0)
deriving DecidableEq, Repr

/-- The answers of `T.write` in an exchange. -/
def Exchange.writes : Exchange → List WriteAnswer
  | .writeError => [.ioerr]
  | .noRead | .readError _ | .reply _ _ _ => [.ok]

/-- The answers of `T.readExact` in an exchange. -/
def Exchange.reads : Exchange → List ReadAnswer
  | .writeError | .noRead => []
  | .readError left => [.ioerr left]
  | .reply got rest lost => [.arrived (got ++ rest) got.length lost]

/-- The Transport calls of an exchange for the frame of opcode `o` and a read of `n` bytes, newest first (R73). -/
def Exchange.calls (o : Byte) (frame : List Byte) (n : Nat) : Exchange → List Event
  | .writeError => [.write frame .ioerr, .discard]
  | .noRead => [.write frame .ok, .discard]
  | .readError _ => [.read n (Config.tTimeout o) none, .settle (Config.tSettle o), .write frame .ok, .discard]
  | .reply got _ _ =>
    [.read n (Config.tTimeout o) (some (got.take n)), .settle (Config.tSettle o), .write frame .ok, .discard]

/-- RB, REXP and RCNT after an exchange that asks for `n` bytes (R136). -/
def Reply.after (r : Reply) (n : Nat) : Exchange → Reply
  | .writeError | .noRead => r
  | .readError _ => { r with rexp := BitVec.ofNat 4 n }
  | .reply got _ _ =>
    { rb := r.rb.writeBytes 0 (got.take n), rexp := BitVec.ofNat 4 n, rcnt := BitVec.ofNat 4 (min n got.length) }

/-- The bytes that stay in the inbound buffer after an exchange (R132, R147); after a read error they are any (log entry 25). -/
def Exchange.left (n : Nat) : Exchange → List Byte
  | .writeError | .noRead => []
  | .readError left => left
  | .reply got rest _ => got.drop n ++ rest

/-- A state after the Transport calls of one transaction: the frame in FB (R107), the reply side, the surroundings. Latch, PH,
SEQ, S and the result registers are untouched, and of IDX, which no rule gives a value then, it says nothing (`observed`). -/
def State.exchanged (s : State) (o : Byte) (payload : List Byte) (n : Nat) (x : Exchange) : State :=
  { s with
    codec :=
      { fb := s.codec.fb.writeBytes 0 (frameBytes o payload)
        flen := BitVec.ofNat 16 (9 + payload.length)
        ck := xor8 (frameBody o payload)
        idx := s.codec.idx }
    reply := s.reply.after n x
    env :=
      { s.env with
        inbound := x.left n
        writeAnswers := s.env.writeAnswers.drop 1
        readAnswers := s.env.readAnswers.drop x.reads.length
        trace := x.calls o (frameBytes o payload) n ++ s.env.trace } }

/-- Everything in a state that a claim about a command's effect compares: all of it but IDX, which holds a free value after a
write (log entry 3), and the count of free values drawn. -/
def State.observed (s : State) : State :=
  { s with codec := { s.codec with idx := 0 }, env := { s.env with draws := 0 } }

/-- The result registers of a success, RES_VALID set (R139). -/
def Result.succeeded (kind : ResponseKind) (b0 b1 e0 e1 : Byte) (dom : Bool) (num : Word32) : Result :=
  { valid := true, ok := true, err := .noError, seq := false, kind := kind, b0 := b0, b1 := b1, e0 := e0, e1 := e1,
    dom := dom, num := num }

/-- The result registers of a failure, RES_VALID set (R139). -/
def Result.failed (err : ErrorKind) (seq : Bool) (kind : ResponseKind) (b0 b1 : Byte) : Result :=
  { valid := true, ok := false, err := err, seq := seq, kind := kind, b0 := b0, b1 := b1, e0 := 0, e1 := 0,
    dom := false, num := 0 }

/-- "Ack result registers" and "Ack errors", `seq` the value of SEQ (R141, R139; the head of 41_system_config). -/
def ackResult (seq : Bool) : Exchange → Result
  | .writeError | .readError _ | .noRead => .failed .transportError seq .none 0 0
  | .reply [] _ _ => .failed .timeoutShortRead seq .timeout 0 0
  | .reply [a] _ _ => .failed .timeoutShortRead seq .timeout a 0
  | .reply (a :: b :: _) _ _ =>
    if a = 0x4F ∧ b = 0x4B then .succeeded .acknowledged 0x4F 0x4B 0 0 true 0
    else .failed .unexpectedReply seq .textStatus a b

/-- The result registers of a query for one byte in `lo .. hi`, `lo` the lowest-ordinal member (R142, R112). -/
def byteResult (lo hi : Byte) : Exchange → Result
  | .writeError | .readError _ | .noRead => .failed .transportError false .none 0 0
  | .reply [] _ _ => .failed .timeoutShortRead false .timeout 0 0
  | .reply (b :: _) _ _ =>
    if lo ≤ b ∧ b ≤ hi then .succeeded .singleByteValue b 0 b 0 true 0
    else .succeeded .singleByteValue b 0 lo 0 false 0

/-- The result registers of GetDrawingColor (R143). -/
def colorResult : Exchange → Result
  | .writeError | .readError _ | .noRead => .failed .transportError false .none 0 0
  | .reply [] _ _ => .failed .timeoutShortRead false .timeout 0 0
  | .reply [a] _ _ => .failed .timeoutShortRead false .timeout a 0
  | .reply (a :: b :: _) _ _ =>
    .succeeded .colorPair a b (if a ≤ 3 then a else 0) (if b ≤ 3 then b else 0) (a ≤ 3 && b ≤ 3) 0

/-- The value of ASCII digits, most significant first: the sum of the digits times their powers of ten (R144). -/
def digitSum : List Byte → Nat
  | [] => 0
  | b :: rest => (b.toNat - 0x30) * 10 ^ rest.length + digitSum rest

/-- The result registers of GetBaudRate with read size `n` (R144). -/
def numberResult (n : Nat) : Exchange → Result
  | .writeError | .readError _ | .noRead => .failed .transportError false .none 0 0
  | .reply got _ _ =>
    match got.take n with
    | [] => .failed .timeoutShortRead false .timeout 0 0
    | a :: rest =>
      if 0x30 ≤ a ∧ a ≤ 0x39 then
        .succeeded .numericAscii a (rest.headD 0) 0 0 true
          (BitVec.ofNat 32 (digitSum ((a :: rest).takeWhile (fun b => 0x30 ≤ b ∧ b ≤ 0x39))))
      else .failed .unexpectedReply false .textStatus a (rest.headD 0)

/-- The result registers of EnterSleep (R145, R175). -/
def silentResult : Exchange → Result
  | .writeError => .failed .transportError false .none 0 0
  | .noRead | .readError _ | .reply _ _ _ => .succeeded .none 0 0 0 0 true 0

/-- The state after a command `i` of one transaction that is no Handshake: the exchange, the operands latched, the block idle
and the result registers `r` valid. -/
def State.afterCommand (s : State) (i : Instr) (payload : List Byte) (n : Nat) (x : Exchange) (r : Result) : State :=
  { s.exchanged i.opcode.byte payload n x with
    latch := s.latch.accept (rawOf i)
    ph := .idle
    seq := false
    result := r }

/-- The state after a command `i` whose encode failed: the discard has been done and nothing else (R231, R108). -/
def State.encodingFailed (s : State) (i : Instr) : State :=
  { s with
    latch := s.latch.accept (rawOf i)
    ph := .idle
    seq := false
    result := .failed .encodingError false .none 0 0
    env := { s.env with inbound := [], trace := .discard :: s.env.trace } }

/-- The block is idle, its frame buffer in canonical form, and the Transport gives the answers of `x` next. -/
def State.readyFor (s : State) (x : Exchange) : Prop :=
  s.ph = .idle ∧ s.codec.fb.wf = true ∧ (∃ ws, s.env.writeAnswers = x.writes ++ ws) ∧
    ∃ rs, s.env.readAnswers = x.reads ++ rs

/-- The largest number of bytes of RB a command overwrites (R140). -/
def replySpan : Instr → Nat
  | .setBaudRate _ => 2
  | .getBaudRate nread => if readSizeLegal nread then nread.toNat else 0
  | i => i.opcode.shape.count 0

end Sys2Proof.Machine
end

