-- ==== Sys2Proof/Certificates/Slice0/Obligations.lean ====
section
/-! DEFINITION. The statements for the provers. Each docstring names the rules of spec/ it formalises; a clause that rests on a
choice of the model names its log entry. -/

open Sys2Proof Sys2Proof.Machine

/-! ## Reset and the invariant -/

/-- What reset leaves in the registers R39 gives a value, with no Transport call made (R39, R270). The record of the calls is
the model's (log entry 18). -/
def Obligations.ResetState : Prop :=
  State.reset.session = .idle ∧ State.reset.ph = .idle ∧ State.reset.seq = false ∧ State.reset.codec.idx = 0 ∧
    State.reset.reply.rcnt = 0 ∧
    State.reset.result =
      { valid := false, ok := false, err := .noError, seq := false, kind := .none, b0 := 0, b1 := 0, e0 := 0, e1 := 0,
        dom := false, num := 0 } ∧
    State.reset.env.trace = []

/-- The state after reset meets the invariant that `StepKeepsInv` says every step keeps, and has sent no byte that is no
frame. Of FLEN, REXP, FB, RB and STR, which R39 leaves unspecified, it holds by the zeros and the empty buffers the model
chose for them (log entries 4 and 5, both unsafe); the record of what was sent is log entry 18. -/
def Obligations.ResetInv : Prop := State.reset.Inv = true ∧ State.reset.framesOk = true

/-- Every step keeps the invariant `State.Inv` (Safety.lean): the buffers are in canonical form and within their sizes (R30,
R60, R63), FLEN, REXP, RCNT are within bounds and RCNT ≤ REXP at PH_DECODE (R28, R30), S is AwaitingHandshake exactly inside a
Handshake transaction (R32), the result registers agree with each other (R33, R139), RES_NUM is at most 999,999,999 (R151),
RES_VALID is set only at PH_IDLE (R138), SEQ only in a composite command (R148), and PH stands only at a phase the opcode has
a rule for (R131). Three points rest on the model's choices: a step may be a reset, after which R39 leaves FLEN, REXP, FB, RB
and STR unspecified, so that there their bounds and the canonical form hold by the zeros and the empty buffers the model chose
(log entries 4, 5 and 16, all unsafe), not by R28, R30, R60 or R63; R33 and R138 set RES_VALID at PH_DONE, and that no state
stands at PH_DONE with RES_VALID set is the reading of PH_DONE as one step (log entry 15, DEDUCED); R63 gives STR at least
MAX_STR bytes, and that it holds no more than 1019, and FB no more than 1033, is log entry 13 (DESIGN CHOICE). -/
def Obligations.StepKeepsInv : Prop := ∀ s t : State, s.Inv = true → step s = .next t → t.Inv = true

/-- Every byte sequence handed to the Transport is a frame of the Command Set, accepted by the reference decoder, and stays so
with every step (R90, R106, R110). The record of the calls, which a reset keeps, is the model's (log entries 16 and 18). -/
def Obligations.StepKeepsFrames : Prop :=
  ∀ s t : State, s.Inv = true → s.framesOk = true → step s = .next t → t.framesOk = true

/-- From a sound state a step is never refused, and its one fault is the read of an operand register the host did not write
at this issue (R25); the faults for unreachable states do not occur (log entries 9 to 11). -/
def Obligations.SoundStepFaults : Prop :=
  ∀ s : State, s.Inv = true →
    (∀ r, step s ≠ .refused r) ∧ ∀ f, step s = .fault f → f = .operandNotWritten

/-- A reset of the block, taken at any time, puts every register of the block at its reset value and leaves the Transport's
buffered bytes, its rate and what was already written as they were (R39, R37; R271 is the spec's inference). The model's
choices in it: the values of the registers and buffers R39 leaves unspecified (log entries 4, 5 and 16, unsafe), and the list
of moves, the record of calls and the answers to come, which stay as they are (log entries 2, 6 and 18). -/
def Obligations.ResetLeavesTransport : Prop :=
  ∀ (s : State) (ms : List HostMove), s.env.moves = .reset :: ms →
    step s = .next { State.reset with env := { s.env with moves := ms } }

/-! ## A step and the command port -/

/-- A read hands over the front of the inbound stream and leaves the rest of it buffered (R74, R147), and nothing but the size
asked for bounds what it may hand over: whatever is buffered, any bytes, as many as asked for or fewer or none, are the answer
of some read (R247, R244). That buffered bytes may be lost is the model's choice (log entry 17). -/
def Obligations.ReadsAreFree : Prop :=
  (∀ (e : Env) (n k lost : Nat) (o : Byte) (bs : List Byte) (rs : List ReadAnswer),
    e.readAnswers = .arrived bs k lost :: rs →
      ∃ got, (e.readExact n o).1 = some got ∧ got.length ≤ n ∧
        got.length = min (min k n) ((e.inbound.drop lost).length + bs.length) ∧
        got ++ (e.readExact n o).2.inbound = e.inbound.drop lost ++ bs ∧ (e.readExact n o).2.readAnswers = rs) ∧
    ∀ (e : Env) (n : Nat) (o : Byte) (got : List Byte), got.length ≤ n →
      (∃ a, (({ e with readAnswers := [a] } : Env).readExact n o).1 = some got) ∧
        ∀ k, k ≤ min n e.inbound.length →
          ∃ a, (({ e with readAnswers := [a] } : Env).readExact n o).1 = some (e.inbound.take k) ∧
            (({ e with readAnswers := [a] } : Env).readExact n o).2.inbound = e.inbound.drop k

/-- Bytes that arrive while no read is in progress raise nothing: they sit behind the ones already buffered, in whatever phase,
and nothing else changes (R236, R37(a); that the buffer has no bound is log entry 17). -/
def Obligations.ArrivalRaisesNothing : Prop :=
  ∀ (s : State) (bs : List Byte) (ms : List HostMove), s.env.moves = .arrive bs :: ms →
    step s = .next { s with env := { s.env with moves := ms, inbound := s.env.inbound ++ bs } }

/-- A command handed over at PH_IDLE is run by the next step: the step is `exec` of it on the state without that move (R130;
one step per command is log entry 1, the list of moves log entry 6). -/
def Obligations.StepRunsIssuedCommand : Prop :=
  ∀ (s : State) (i : Instr) (ms : List HostMove), s.ph = .idle → s.env.moves = .issue i :: ms →
    step s = exec i { s with env := { s.env with moves := ms } }

/-- When the bits of an opcode-table word decode to a command, the step from the state `withFetchWord` makes is `exec` of that
command on the given state at PH_IDLE. The model's choices in it: the issue stands for the fetch (log entry 6), and the word is
completed to a frame, any trailer or checksum of its own being dropped (log entry 7). -/
def Obligations.StepRunsDecodedWord : Prop :=
  ∀ (s : State) (nbits w : Nat) (i : Instr), decodeTableWord nbits w = some i →
    step (s.withFetchWord nbits w) = exec i { s with ph := .idle }

/-- While a command is in progress an issue has no step (R130, R278). That the block then does its next phase and that the
issue stays among the host's moves is the model's choice (log entry 10). -/
def Obligations.BusyPortHoldsIssue : Prop :=
  ∀ (s t : State) (m : HostMove) (ms : List HostMove), s.ph ≠ .idle → s.env.moves = m :: ms →
    ((∃ i, m = .issue i) ∨ ∃ c, m = .issueRaw c) →
    step s = phaseStep s ∧ (step s = .next t → t.env.moves = m :: ms)

/-- A meaning reached while a command is in progress stops: the command port is not ready (R130, U12; log entry 10). -/
def Obligations.BusyExecStops : Prop :=
  ∀ (i : Instr) (s : State), s.ph ≠ .idle → exec i s = .fault .portNotReady

/-- Command issue in the register view is one step: OP and the operand registers the host writes, then RES_VALID and SEQ are
cleared and PH is PH_DISCARD; an operand register not written, every byte of STR not written, every other result register, S,
FB, FLEN, CK, IDX, RB, REXP, RCNT and the Transport are unchanged (R130, R33). The model's choices in it: STR holds exactly
1019 bytes and takes the first 1019 characters, where the spec asks for at least that capacity (log entry 13); a register is
marked as holding a value exactly if it was written at this issue, and STR by its number of characters (log entry 9, after
R25); a register the opcode does not read is latched too if the host writes it (log entry 24). -/
def Obligations.IssueLatchesOperands : Prop :=
  ∀ (s : State) (c : RawIssue) (ms : List HostMove), s.ph = .idle → s.env.moves = .issueRaw c :: ms →
    ∃ t, step s = .next t ∧ t.latch.op = c.op ∧
      t.latch.x0 = c.x0.getD s.latch.x0 ∧ t.latch.x1 = c.x1.getD s.latch.x1 ∧ t.latch.x2 = c.x2.getD s.latch.x2 ∧
      t.latch.x3 = c.x3.getD s.latch.x3 ∧ t.latch.x4 = c.x4.getD s.latch.x4 ∧ t.latch.x5 = c.x5.getD s.latch.x5 ∧
      t.latch.rate = c.rate.getD s.latch.rate ∧ t.latch.slen = c.slen.getD s.latch.slen ∧
      t.latch.nread = c.nread.getD s.latch.nread ∧
      t.latch.written =
        { x0 := c.x0.isSome, x1 := c.x1.isSome, x2 := c.x2.isSome, x3 := c.x3.isSome, x4 := c.x4.isSome,
          x5 := c.x5.isSome, rate := c.rate.isSome, slen := c.slen.isSome,
          str := min (c.str.getD []).length 1019, nread := c.nread.isSome } ∧
      (c.str = none → t.latch.str = s.latch.str) ∧
      (s.latch.str.wf = true → ∀ str, c.str = some str →
        t.latch.str.readBytes 0 (min str.length 1019) = str.take 1019 ∧
          ∀ a, min str.length 1019 ≤ a → t.latch.str.read a = s.latch.str.read a) ∧
      t.result = { s.result with valid := false } ∧ t.seq = false ∧ t.ph = .discard ∧ t.session = s.session ∧
      t.codec = s.codec ∧ t.reply = s.reply ∧ t.env = { s.env with moves := ms }

/-- An operand register the opcode reads but the host did not write at this issue holds no value: PH_ENCODE faults (R25, U14).
For format PS: SLEN itself; a character below SLEN, unless the string is too long; a coordinate, unless the string is too long
or holds 0x00, in which case the encode fails before it reads one. That order of the reads is log entry 9. -/
def Obligations.UnwrittenOperandStops : Prop :=
  ∀ (s : State) (o : Opcode), s.ph = .encode → s.seq = false → Opcode.ofByte s.latch.op = some o →
    ((∃ d, o.format = .pe1 d ∧ s.latch.written.x0 = false) ∨
      (∃ d d', o.format = .pe2 d d' ∧ (s.latch.written.x0 && s.latch.written.x1) = false) ∨
      (o.format = .pr ∧ s.latch.written.rate = false) ∨
      (o.format = .pc2 ∧ (s.latch.written.x0 && s.latch.written.x1) = false) ∨
      (o.format = .pc3 ∧ (s.latch.written.x0 && s.latch.written.x1 && s.latch.written.x2) = false) ∨
      (o.format = .pc4 ∧
        (s.latch.written.x0 && s.latch.written.x1 && s.latch.written.x2 && s.latch.written.x3) = false) ∨
      (o.format = .pc6 ∧
        (s.latch.written.x0 && s.latch.written.x1 && s.latch.written.x2 && s.latch.written.x3 && s.latch.written.x4 &&
          s.latch.written.x5) = false) ∨
      (o.format = .ps ∧ s.latch.written.slen = false) ∨
      (o.format = .ps ∧ s.latch.slen.toNat ≤ 1019 ∧ s.latch.written.str < s.latch.slen.toNat) ∨
      (o.format = .ps ∧ s.latch.slen.toNat ≤ 1019 ∧ 0x00 ∉ s.latch.text ∧
        (s.latch.written.x0 && s.latch.written.x1) = false) ∨
      (o = .getBaudRate ∧ s.latch.written.nread = false)) →
    phaseStep s = .fault .operandNotWritten

/-- Where PH goes from each phase, for any opcode and any answer of the Transport (R131 to R137, R148): no other successor
exists. A transaction that ends goes to PH_DONE, but the first one of a ClearScreen goes on to its Handshake. That PH_DONE is
one step, which sets RES_VALID and goes to PH_IDLE, is the reading of log entry 15. -/
def Obligations.PhaseWalk : Prop :=
  ∀ s t : State, phaseStep s = .next t →
    match s.ph with
    | .idle => t = s
    | .discard => t.ph = .encode
    | .encode => t.ph = .write ∨ s.endsAt t ∧ t.result.err = .encodingError
    | .write =>
      match s.env.nextWrite.1 with
      | .ioerr => s.endsAt t
      | .ok =>
        if s.latch.op = 0x01 ∧ s.seq = false then t.ph = .reconf
        else if s.txReads then t.ph = .settle
        else s.endsAt t
    | .settle => t.ph = .read
    | .read =>
      match s.env.nextRead.1 with
      | .ioerr _ => s.endsAt t
      | .arrived _ _ _ => t.ph = .decode
    | .decode => s.endsAt t
    | .reconf => t.ph = .discard ∧ t.seq = true
    | .done => t.ph = .idle ∧ t.result = { s.result with valid := true }

/-- The phases of the register view, run to PH_IDLE from the issue of a command, give exactly the state the command gives as a
value, where the reply and the string buffer are in canonical form. It rests on R131 to R138 and R148; the two views are log
entry 1, one step in PH_DONE is log entry 15, RES_ERR read at the end of a ClearScreen is log entry 26, and the spec calls the
function `Transaction` its own big-step reading of them (R149). -/
def Obligations.PhasesRunTheCommand : Prop :=
  ∀ (i : Instr) (s : State), s.ph = .idle → s.latch.str.wf = true → s.reply.rb.wf = true →
    runToIdle 20 (s.issue (rawOf i)) = exec i s

/-! ## Encoding -/

/-- The opcode bytes of the Command Set are these 28 values and no others (R104, R106). -/
def Obligations.OpcodeSet : Prop :=
  ∀ b : Byte, (Opcode.ofByte b).isSome =
    ([0x00, 0x01, 0x02, 0x06, 0x07, 0x08, 0x0A, 0x0C, 0x0D, 0x0E, 0x0F, 0x10, 0x11, 0x1C, 0x1D, 0x1E, 0x1F, 0x20, 0x22,
      0x24, 0x25, 0x26, 0x27, 0x28, 0x29, 0x2E, 0x30, 0x70] : List Byte).contains b

/-- Frames written out byte by byte in the spec decode to the commands they stand for, one of each payload format (R110, R170,
R171, R190, R194, R200, R201, R204, R206, R215). -/
def Obligations.WrittenFramesDecode : Prop :=
  frameDecode [0xA5, 0x00, 0x09, 0x00, 0xCC, 0x33, 0xC3, 0x3C, 0xAC] = .ok .handshake ∧
  frameDecode [0xA5, 0x00, 0x0D, 0x01, 0x00, 0x01, 0xC2, 0x00, 0xCC, 0x33, 0xC3, 0x3C, 0x6A] = .ok (.setBaudRate 115200) ∧
  frameDecode [0xA5, 0x00, 0x0B, 0x10, 0x03, 0x00, 0xCC, 0x33, 0xC3, 0x3C, 0xBD] = .ok (.setDrawingColor 3 0) ∧
  frameDecode [0xA5, 0x00, 0x0A, 0x1E, 0x02, 0xCC, 0x33, 0xC3, 0x3C, 0xB3] = .ok (.setEnglishFontSize 2) ∧
  frameDecode [0xA5, 0x00, 0x0D, 0x20, 0x03, 0x1F, 0x02, 0x57, 0xCC, 0x33, 0xC3, 0x3C, 0xC1] = .ok (.drawPoint 799 599) ∧
  frameDecode [0xA5, 0x00, 0x11, 0x22, 0x00, 0x0A, 0x00, 0x14, 0x01, 0x2C, 0x01, 0x90, 0xCC, 0x33, 0xC3, 0x3C, 0x34] =
    .ok (.drawLine 10 20 300 400) ∧
  frameDecode [0xA5, 0x00, 0x0F, 0x26, 0x01, 0x90, 0x01, 0x2C, 0x00, 0x32, 0xCC, 0x33, 0xC3, 0x3C, 0x02] =
    .ok (.drawCircle 400 300 50) ∧
  frameDecode [0xA5, 0x00, 0x15, 0x28, 0x00, 0x0A, 0x00, 0x0A, 0x00, 0x64, 0x00, 0x0A, 0x00, 0x37, 0x00, 0x5A, 0xCC, 0x33,
    0xC3, 0x3C, 0x9B] = .ok (.drawTriangle 10 10 100 10 55 90) ∧
  frameDecode [0xA5, 0x00, 0x10, 0x30, 0x00, 0x0A, 0x00, 0x14, 0x48, 0x69, 0x00, 0xCC, 0x33, 0xC3, 0x3C, 0xBA] =
    .ok (.displayText 10 20 [0x48, 0x69])

/-- Decoding the frame of any well-formed command gives the command back, with every operand at every value the encoding
admits; of GetBaudRate the read size is not on the wire, and the decoder answers 9 for it (log entry 8). For the two string
commands the spec calls the law its own inference from R100, R103 and R110 (R111(a)). -/
def Obligations.DecodeOfEncode : Prop := ∀ i : Instr, i.wellFormed = true → frameDecode (encode i) = .ok i.wire

/-- Whatever byte sequence the reference decoder accepts, it is the frame of the command it answers, and that command is well
formed: no byte of a valid frame is ignored. The spec calls it its own inference from R100, R103 and R110 (R111(b)). -/
def Obligations.EncodeOfDecode : Prop :=
  ∀ (b : List Byte) (i : Instr), frameDecode b = .ok i → encode i = b ∧ i.wellFormed = true

/-- The frame of any opcode and payload that fit: header 0xA5, the length in offsets 1 and 2 with the high byte first, the
opcode, the payload, the trailer CC 33 C3 3C, and the checksum, which is the XOR of all bytes before it (R90, R91, R95,
R96). -/
def Obligations.FrameLayout : Prop :=
  ∀ (op : Byte) (payload : List Byte), 9 + payload.length ≤ 1033 →
    ∃ (lenH lenL chk : Byte),
      frameBytes op payload = [0xA5, lenH, lenL, op] ++ payload ++ [0xCC, 0x33, 0xC3, 0x3C] ++ [chk] ∧
        256 * lenH.toNat + lenL.toNat = (frameBytes op payload).length ∧
        chk = xor8 ((frameBytes op payload).take ((frameBytes op payload).length - 1)) ∧
        xor8 (frameBytes op payload) = 0

/-- The trailer XORs to zero, so the checksum is that of header, length, opcode and payload. It rests on R95 and R96; the
spec states it as its own inference from them (R109). -/
def Obligations.ChecksumIdentity : Prop :=
  xor8 [0xCC, 0x33, 0xC3, 0x3C] = 0 ∧
    ∀ (op lenH lenL chk : Byte) (payload : List Byte),
      frameBytes op payload = [0xA5, lenH, lenL, op] ++ payload ++ [0xCC, 0x33, 0xC3, 0x3C] ++ [chk] →
        chk = 0xA5 ^^^ lenH ^^^ lenL ^^^ op ^^^ xor8 payload

/-- The encoder in place: a frame above MAX_FRAME is refused and nothing is written; otherwise FLEN is `9 + n`, FB holds the
frame at addresses 0 to FLEN-1 and its other bytes are unchanged, IDX stands at the checksum, CK is the XOR of the bytes
before the checksum, and the frame depends on the opcode and the payload only (R107, R99, R28, R29). -/
def Obligations.EncoderInPlace : Prop :=
  ∀ (op : Byte) (payload : List Byte) (c : Codec), c.fb.wf = true →
    (1033 < 9 + payload.length → frameEncode op payload c = none) ∧
    (9 + payload.length ≤ 1033 →
      ∃ d, frameEncode op payload c = some d ∧ d.flen.toNat = 9 + payload.length ∧
        d.fb.readBytes 0 (9 + payload.length) = frameBytes op payload ∧
        (∀ a, 9 + payload.length ≤ a → d.fb.read a = c.fb.read a) ∧
        d.ck = xor8 ((frameBytes op payload).take (8 + payload.length)) ∧ d.ck = d.fb.read (8 + payload.length) ∧
        d.idx.toNat = 8 + payload.length)

/-- A 16-bit or 32-bit write to a buffer stores the more significant byte at the lower address and touches no other byte; read
at the same width it gives the value back (R60, R65, R13). That a write keeps the canonical form is the model's (log entry 5).
-/
def Obligations.BufferByteOrder : Prop :=
  ∀ (m : Memory) (a : Nat) (v : Word16) (w : Word32), m.wf = true →
    (m.write16 a v).read a = v.extractLsb' 8 8 ∧ (m.write16 a v).read (a + 1) = v.extractLsb' 0 8 ∧
    (m.write16 a v).read16 a = v ∧
    (∀ c, c < a ∨ a + 2 ≤ c → (m.write16 a v).read c = m.read c) ∧
    (m.write32 a w).read a = w.extractLsb' 24 8 ∧ (m.write32 a w).read (a + 3) = w.extractLsb' 0 8 ∧
    (m.write32 a w).read32 a = w ∧
    (∀ c, c < a ∨ a + 4 ≤ c → (m.write32 a w).read c = m.read c) ∧
    (m.write16 a v).wf = true ∧ (m.write32 a w).wf = true

/-- A command that fails one of the checks of BuildPayload (an operand outside its domain, an illegal read size, a string too
long or holding 0x00) completes with EncodingError: the discard has been done, no byte is written, S, FB, FLEN, CK, IDX, RB,
REXP, RCNT are unchanged, and the operands are in the latch (R108, R231, R99, R102, R103, R24, R130). The model's choices in
that latch: a string longer than 65535 characters latches SLEN 65535 (log entry 12), STR takes at most the first 1019
characters (log entry 13, unsafe), and a mark says which registers hold a value (log entry 9). The record of the calls is log
entry 18. -/
def Obligations.IllFormedCommandFails : Prop :=
  ∀ (i : Instr) (s : State), s.ph = .idle → i.wellFormed = false → exec i s = .next (s.encodingFailed i)

/-- The same for an opcode outside the Command Set, issued in the register view with any operands: after its phases the block
is idle again with EncodingError, RES_SEQ 0 and S unchanged, the discard is the only Transport call (R106, R108). The model's
choices in the latch it leaves: an unknown opcode reads no operand register, and every register the host writes is latched all
the same (log entry 24), STR takes the first 1019 characters only (log entry 13, unsafe), and a mark says which registers hold
a value (log entry 9). The register view is log entry 1, the one step in PH_DONE log entry 15, the record of the calls log
entry 18. -/
def Obligations.UnknownOpcodeFails : Prop :=
  ∀ (c : RawIssue) (s : State), s.ph = .idle → Opcode.ofByte c.op = none →
    runToIdle 20 (s.issue c) =
      .next
        { s with
          latch := s.latch.accept c
          seq := false
          result := .failed .encodingError false .none 0 0
          env := { s.env with inbound := [], trace := .discard :: s.env.trace } }

/-! ## The commands

Each of these gives the whole next state, for every way the Transport may answer (`Exchange`, Safety.lean): the frame that was
written and now stands in FB, the Transport calls in their order, REXP, RB, RCNT, S, the result registers; everything not
named in it is unchanged. IDX, which holds a free value then (log entry 3), is left out of the comparison (`observed`). Surplus
reply bytes stay buffered (R147), in a buffer without a bound (log entry 17); what is buffered after a read error is any bytes
(log entry 25). The latch's marks of the registers that hold a value are log entry 9, the record of the calls log entry 18, and one
step per command log entry 1. -/

/-- Handshake: S passes to Ready on the reply "OK" and to Idle on any failure, from every value of S (R170, R32). -/
def Obligations.HandshakeRuns : Prop :=
  ∀ (s : State) (x : Exchange), s.readyFor x → x ≠ .noRead →
    (∃ t, exec .handshake s = .next t ∧ t.observed = ({ s.afterCommand .handshake [] 2 x (ackResult false x) with
          session := if (ackResult false x).ok then .ready else .idle } : State).observed)

/-- SetBaudRate. If its frame cannot be written, TransportError, without reconfiguring and without Handshake, S unchanged. If
it is written, nothing is read for it: the Transport's rate is set, then the Handshake runs, and its outcome is the command's,
with RES_SEQ 1 on a failure; the rate is not switched back (R171, R148(b), R249). -/
def Obligations.SetBaudRateRuns : Prop :=
  ∀ (s : State) (rate : Word32),
    (s.readyFor .writeError →
      (∃ t, exec (.setBaudRate rate) s = .next t ∧
        t.observed = (s.afterCommand (.setBaudRate rate) (be32 rate) 0 .writeError (ackResult false .writeError)).observed)) ∧
    ∀ x : Exchange, x ≠ .noRead → s.ph = .idle → s.codec.fb.wf = true →
      (∃ ws, s.env.writeAnswers = .ok :: x.writes ++ ws) → (∃ rs, s.env.readAnswers = x.reads ++ rs) →
      (∃ t, exec (.setBaudRate rate) s = .next t ∧ t.observed = ({ ({ s.exchanged 0x01 (be32 rate) 0 .noRead with
                env := (s.exchanged 0x01 (be32 rate) 0 .noRead).env.configureBaudRate rate } : State).exchanged
              0x00 [] 2 x with
            latch := s.latch.accept (rawOf (.setBaudRate rate))
            ph := .idle
            seq := true
            session := if (ackResult true x).ok then .ready else .idle
            result := ackResult true x } : State).observed)

/-- GetBaudRate: for a read size of 1 to 9 that many bytes are asked for and the leading ASCII digits are the value; any other
read size ends in EncodingError after the discard (R172, R144, R24). -/
def Obligations.GetBaudRateRuns : Prop :=
  ∀ (s : State) (nread : BitVec 4),
    (1 ≤ nread.toNat ∧ nread.toNat ≤ 9 → ∀ x : Exchange, s.readyFor x → x ≠ .noRead →
      (∃ t, exec (.getBaudRate nread) s = .next t ∧
        t.observed = (s.afterCommand (.getBaudRate nread) [] nread.toNat x (numberResult nread.toNat x)).observed)) ∧
    (nread.toNat = 0 ∨ 9 < nread.toNat → s.ph = .idle →
      exec (.getBaudRate nread) s = .next (s.encodingFailed (.getBaudRate nread)))

/-- The queries for one byte: whatever byte arrives is reported raw in RES_B0 and succeeds; a byte outside the domain decodes
as the lowest-ordinal member with RES_DOM 0; nothing is compared with "OK" (R173, R177, R192, R193, R142). -/
def Obligations.ByteQueriesRun : Prop :=
  ∀ (s : State) (x : Exchange), s.readyFor x → x ≠ .noRead →
    (∃ t, exec .getStorageArea s = .next t ∧
      t.observed = (s.afterCommand .getStorageArea [] 1 x (byteResult 0 1 x)).observed) ∧
    (∃ t, exec .getDisplayDirection s = .next t ∧
      t.observed = (s.afterCommand .getDisplayDirection [] 1 x (byteResult 0 1 x)).observed) ∧
    (∃ t, exec .getEnglishFontSize s = .next t ∧
      t.observed = (s.afterCommand .getEnglishFontSize [] 1 x (byteResult 1 3 x)).observed) ∧
    (∃ t, exec .getChineseFontSize s = .next t ∧
      t.observed = (s.afterCommand .getChineseFontSize [] 1 x (byteResult 1 3 x)).observed)

/-- GetDrawingColor: the drawing colour first, then the background colour, each raw and decoded with the fallback Black; "OK"
is not recognised as an acknowledgement (R191, R143). -/
def Obligations.GetDrawingColorRuns : Prop :=
  ∀ (s : State) (x : Exchange), s.readyFor x → x ≠ .noRead →
    (∃ t, exec .getDrawingColor s = .next t ∧ t.observed = (s.afterCommand .getDrawingColor [] 2 x (colorResult x)).observed)

/-- EnterSleep: discard, encode, write and nothing more; success means the frame was handed over (R175, R145). -/
def Obligations.EnterSleepRuns : Prop :=
  ∀ (s : State) (x : Exchange), s.readyFor x → (x = .noRead ∨ x = .writeError) →
    (∃ t, exec .enterSleep s = .next t ∧ t.observed = (s.afterCommand .enterSleep [] 0 x (silentResult x)).observed)

/-- Refresh, ImportFontLibrary, ImportImage: no operands, acknowledged (R176, R179, R180). -/
def Obligations.ActionsRun : Prop :=
  ∀ (s : State) (x : Exchange), s.readyFor x → x ≠ .noRead →
    (∃ t, exec .refresh s = .next t ∧ t.observed = (s.afterCommand .refresh [] 2 x (ackResult false x)).observed) ∧
    (∃ t, exec .importFontLibrary s = .next t ∧
      t.observed = (s.afterCommand .importFontLibrary [] 2 x (ackResult false x)).observed) ∧
    (∃ t, exec .importImage s = .next t ∧ t.observed = (s.afterCommand .importImage [] 2 x (ackResult false x)).observed)

/-- SetStorageArea and SetDisplayDirection: codes 0 and 1 are sent as the low byte of the operand and acknowledged; any other
16-bit value ends in EncodingError (R174, R178, R102, R112). -/
def Obligations.TwoCodeSettersRun : Prop :=
  ∀ (s : State) (v : Word16),
    (v = 0 ∨ v = 1 → ∀ x : Exchange, s.readyFor x → x ≠ .noRead →
      (∃ t, exec (.setStorageArea v) s = .next t ∧
        t.observed = (s.afterCommand (.setStorageArea v) [v.extractLsb' 0 8] 2 x (ackResult false x)).observed) ∧
      (∃ t, exec (.setDisplayDirection v) s = .next t ∧
        t.observed = (s.afterCommand (.setDisplayDirection v) [v.extractLsb' 0 8] 2 x (ackResult false x)).observed)) ∧
    (v ≠ 0 ∧ v ≠ 1 → s.ph = .idle →
      exec (.setStorageArea v) s = .next (s.encodingFailed (.setStorageArea v)) ∧
      exec (.setDisplayDirection v) s = .next (s.encodingFailed (.setDisplayDirection v)))

/-- SetDrawingColor: the drawing colour's byte before the background colour's, both 0 to 3; any other operand ends in
EncodingError (R190, R102, R112). -/
def Obligations.SetDrawingColorRuns : Prop :=
  ∀ (s : State) (color background : Word16),
    (color ≤ 3 ∧ background ≤ 3 → ∀ x : Exchange, s.readyFor x → x ≠ .noRead →
      (∃ t, exec (.setDrawingColor color background) s = .next t ∧
        t.observed =
          (s.afterCommand (.setDrawingColor color background) [color.extractLsb' 0 8, background.extractLsb' 0 8] 2 x
            (ackResult false x)).observed)) ∧
    (3 < color ∨ 3 < background → s.ph = .idle →
      exec (.setDrawingColor color background) s = .next (s.encodingFailed (.setDrawingColor color background)))

/-- SetEnglishFontSize and SetChineseFontSize: the codes 1, 2, 3; any other operand, also 0 and a point size, ends in
EncodingError (R194, R195, R102, R112). -/
def Obligations.FontSizeSettersRun : Prop :=
  ∀ (s : State) (v : Word16),
    (1 ≤ v ∧ v ≤ 3 → ∀ x : Exchange, s.readyFor x → x ≠ .noRead →
      (∃ t, exec (.setEnglishFontSize v) s = .next t ∧
        t.observed = (s.afterCommand (.setEnglishFontSize v) [v.extractLsb' 0 8] 2 x (ackResult false x)).observed) ∧
      (∃ t, exec (.setChineseFontSize v) s = .next t ∧
        t.observed = (s.afterCommand (.setChineseFontSize v) [v.extractLsb' 0 8] 2 x (ackResult false x)).observed)) ∧
    (v = 0 ∨ 3 < v → s.ph = .idle →
      exec (.setEnglishFontSize v) s = .next (s.encodingFailed (.setEnglishFontSize v)) ∧
      exec (.setChineseFontSize v) s = .next (s.encodingFailed (.setChineseFontSize v)))

/-- The drawing commands: every operand value is accepted and laid out high byte first, in operand order (R200 to R207,
R101). -/
def Obligations.DrawingCommandsRun : Prop :=
  ∀ (s : State) (x : Exchange) (a b c d e f : Word16), s.readyFor x → x ≠ .noRead →
    (∃ t, exec (.drawPoint a b) s = .next t ∧
      t.observed = (s.afterCommand (.drawPoint a b) (be16 a ++ be16 b) 2 x (ackResult false x)).observed) ∧
    (∃ t, exec (.drawLine a b c d) s = .next t ∧
      t.observed =
        (s.afterCommand (.drawLine a b c d) (be16 a ++ be16 b ++ be16 c ++ be16 d) 2 x (ackResult false x)).observed) ∧
    (∃ t, exec (.fillRectangle a b c d) s = .next t ∧
      t.observed =
        (s.afterCommand (.fillRectangle a b c d) (be16 a ++ be16 b ++ be16 c ++ be16 d) 2 x (ackResult false x)).observed) ∧
    (∃ t, exec (.drawRectangle a b c d) s = .next t ∧
      t.observed =
        (s.afterCommand (.drawRectangle a b c d) (be16 a ++ be16 b ++ be16 c ++ be16 d) 2 x (ackResult false x)).observed) ∧
    (∃ t, exec (.drawCircle a b c) s = .next t ∧
      t.observed = (s.afterCommand (.drawCircle a b c) (be16 a ++ be16 b ++ be16 c) 2 x (ackResult false x)).observed) ∧
    (∃ t, exec (.fillCircle a b c) s = .next t ∧
      t.observed = (s.afterCommand (.fillCircle a b c) (be16 a ++ be16 b ++ be16 c) 2 x (ackResult false x)).observed) ∧
    (∃ t, exec (.drawTriangle a b c d e f) s = .next t ∧
      t.observed = (s.afterCommand (.drawTriangle a b c d e f) (be16 a ++ be16 b ++ be16 c ++ be16 d ++ be16 e ++ be16 f) 2 x
          (ackResult false x)).observed) ∧
    (∃ t, exec (.fillTriangle a b c d e f) s = .next t ∧
      t.observed = (s.afterCommand (.fillTriangle a b c d e f) (be16 a ++ be16 b ++ be16 c ++ be16 d ++ be16 e ++ be16 f) 2 x
          (ackResult false x)).observed)

/-- ClearScreen: the internal Handshake always runs and moves S; the command succeeds exactly when both transactions read
"OK"; the first failure is the one reported, with RES_SEQ 1 only if it is the Handshake's (R208, R148(a)). -/
def Obligations.ClearScreenRuns : Prop :=
  ∀ (s : State) (x y : Exchange), s.ph = .idle → s.codec.fb.wf = true → x ≠ .noRead → y ≠ .noRead →
    (∃ ws, s.env.writeAnswers = x.writes ++ y.writes ++ ws) → (∃ rs, s.env.readAnswers = x.reads ++ y.reads ++ rs) →
    (∃ t, exec .clearScreen s = .next t ∧ t.observed = ({ (s.exchanged 0x2E [] 2 x).exchanged 0x00 [] 2 y with
          latch := s.latch.accept (rawOf .clearScreen)
          ph := .idle
          seq := true
          session := if (ackResult true y).ok then .ready else .idle
          result := if (ackResult false x).ok then ackResult true y else ackResult false x } : State).observed)

/-- DisplayText and DisplayImage: position, characters unchanged, one NUL; a string of 1019 characters fits and one of 1020
does not; a character 0x00 ends in EncodingError; nothing is ever cut (R215, R216, R99, R103). The model's choices in it: a
string longer than 65535 characters latches SLEN 65535 (log entry 12), and STR takes at most its first 1019 characters (log
entry 13, unsafe). -/
def Obligations.StringCommandsRun : Prop :=
  ∀ (s : State) (a b : Word16) (str : List Byte),
    (str.length ≤ 1019 ∧ 0x00 ∉ str → ∀ x : Exchange, s.readyFor x → x ≠ .noRead →
      (∃ t, exec (.displayText a b str) s = .next t ∧
        t.observed =
          (s.afterCommand (.displayText a b str) (be16 a ++ be16 b ++ str ++ [0x00]) 2 x (ackResult false x)).observed) ∧
      (∃ t, exec (.displayImage a b str) s = .next t ∧
        t.observed =
          (s.afterCommand (.displayImage a b str) (be16 a ++ be16 b ++ str ++ [0x00]) 2 x (ackResult false x)).observed)) ∧
    (1020 ≤ str.length ∨ 0x00 ∈ str → s.ph = .idle →
      exec (.displayText a b str) s = .next (s.encodingFailed (.displayText a b str)) ∧
      exec (.displayImage a b str) s = .next (s.encodingFailed (.displayImage a b str)))

/-- Every command ends, whatever the Transport answers: a next state with the block idle and the result valid (R245, R285,
R150; one step per command is log entry 1). -/
def Obligations.EveryCommandEnds : Prop :=
  ∀ (i : Instr) (s : State), s.ph = .idle →
    ∃ t, exec i s = .next t ∧ t.ph = .idle ∧ t.result.valid = true ∧ t.env.moves = s.env.moves ∧
      (t.result.ok = true ↔ t.result.err = .noError)

/-! ## What a command leaves unchanged -/

/-- The registers of the latch after any command: OP is its opcode, an operand register it reads holds the operand, every
other one is unchanged; SEQ is set only by the two composite commands (R21 to R25, R104, R130, R27). -/
def Obligations.LatchFrame : Prop :=
  ∀ (i : Instr) (s t : State), exec i s = .next t →
    t.latch.op = i.opcode.byte ∧
    (t.latch.x0 = s.latch.x0 ∨
      i.opcode.format ≠ .p0 ∧ i.opcode.format ≠ .pr) ∧
    (t.latch.x1 = s.latch.x1 ∨ i.opcode.format = .pe2 .color .color ∨ i.opcode.format = .pc2 ∨ i.opcode.format = .pc3 ∨
      i.opcode.format = .pc4 ∨ i.opcode.format = .pc6 ∨ i.opcode.format = .ps) ∧
    (t.latch.x2 = s.latch.x2 ∨ i.opcode.format = .pc3 ∨ i.opcode.format = .pc4 ∨ i.opcode.format = .pc6) ∧
    (t.latch.x3 = s.latch.x3 ∨ i.opcode.format = .pc4 ∨ i.opcode.format = .pc6) ∧
    (t.latch.x4 = s.latch.x4 ∧ t.latch.x5 = s.latch.x5 ∨ i.opcode.format = .pc6) ∧
    (t.latch.rate = s.latch.rate ∨ i.opcode = .setBaudRate) ∧
    (t.latch.nread = s.latch.nread ∨ i.opcode = .getBaudRate) ∧
    (t.latch.slen = s.latch.slen ∧ t.latch.str = s.latch.str ∨ i.opcode.format = .ps) ∧
    (∀ v, (rawOf i).x0 = some v → t.latch.x0 = v) ∧ (∀ v, (rawOf i).x1 = some v → t.latch.x1 = v) ∧
    (∀ v, (rawOf i).x2 = some v → t.latch.x2 = v) ∧ (∀ v, (rawOf i).x3 = some v → t.latch.x3 = v) ∧
    (∀ v, (rawOf i).x4 = some v → t.latch.x4 = v) ∧ (∀ v, (rawOf i).x5 = some v → t.latch.x5 = v) ∧
    (∀ r, i = .setBaudRate r → t.latch.rate = r) ∧
    (∀ n, i = .getBaudRate n → t.latch.nread = n) ∧
    (s.latch.str.wf = true → i.opcode.format = .ps → i.text.length ≤ 1019 →
      t.latch.slen.toNat = i.text.length ∧ t.latch.str.readBytes 0 i.text.length = i.text) ∧
    (∀ a b c d e f, i = .drawTriangle a b c d e f ∨ i = .fillTriangle a b c d e f →
      t.latch.x0 = a ∧ t.latch.x1 = b ∧ t.latch.x2 = c ∧ t.latch.x3 = d ∧ t.latch.x4 = e ∧ t.latch.x5 = f) ∧
    (t.seq = true → i = .clearScreen ∨ i.opcode = .setBaudRate)

/-- The bytes of the three buffers after any command, whatever the Transport answers: FB is unchanged at and above the length
of the command's frame (for SetBaudRate that covers its Handshake's shorter frame), and everywhere if the encode failed; RB is
unchanged at and above the number of bytes the command asks for; STR at and above the number of characters, and at and above
1019, the capacity the model chose (log entry 13; R28, R30, R62, R63, R238). -/
def Obligations.BufferFrame : Prop :=
  ∀ (i : Instr) (s t : State), s.codec.fb.wf = true → s.reply.rb.wf = true → s.latch.str.wf = true → exec i s = .next t →
    (∀ a, (encode i).length ≤ a → t.codec.fb.read a = s.codec.fb.read a) ∧
    (i.wellFormed = false → t.codec = s.codec ∧ t.reply = s.reply) ∧
    (∀ a, replySpan i ≤ a → t.reply.rb.read a = s.reply.rb.read a) ∧
    (∀ a, min i.text.length 1019 ≤ a → t.latch.str.read a = s.latch.str.read a)

/-- S changes only inside a Handshake transaction: after every other command it is as before, whatever the Transport answers
(R32, R273). -/
def Obligations.SessionFrame : Prop :=
  ∀ (i : Instr) (s t : State), exec i s = .next t → i ≠ .handshake → i ≠ .clearScreen → i.opcode ≠ .setBaudRate →
    t.session = s.session

/-- No command is refused because of S, and no command reads it: from states that differ only in S a command gives states that
agree in everything but S (R273, R32, R243). -/
def Obligations.SessionGatesNothing : Prop :=
  ∀ (i : Instr) (s t : State) (a : Session), exec i s = .next t →
    ∃ u, exec i { s with session := a } = .next u ∧ u = { t with session := u.session }

/-- The old contents of FB and RB are never read: from states that differ only in them a command makes the same Transport
calls, gives the same result and S, and leaves the same FLEN, CK, REXP and RCNT. It rests on R28 and R30, from which the spec
infers it (R79). -/
def Obligations.BuffersAreFresh : Prop :=
  ∀ (i : Instr) (s t : State) (fb rb : Memory), s.codec.fb.wf = true → fb.wf = true → exec i s = .next t →
    ∃ u, exec i { s with codec := { s.codec with fb := fb }, reply := { s.reply with rb := rb } } = .next u ∧
      u = { t with codec := { t.codec with fb := u.codec.fb }, reply := { t.reply with rb := u.reply.rb } }

/-- A later command sees nothing of the operands of an earlier one: the operand registers a command does not read have no
effect on the Transport calls, the result, S, FB or RB (R21, R25, R78). -/
def Obligations.LatchIsDiscarded : Prop :=
  ∀ (i : Instr) (s t : State) (l : Latch), exec i s = .next t →
    ∃ u, exec i { s with latch := l } = .next u ∧ u = { t with latch := u.latch }

/-- What was handed to the Transport cannot be recalled: every step, also a reset, only adds to the record of its calls (R69,
R238; the record is log entry 18, and that a reset keeps it log entry 16). -/
def Obligations.CallsAreOnlyAdded : Prop :=
  ∀ s t : State, step s = .next t → ∃ calls, t.env.trace = calls ++ s.env.trace

/-- RES_SEQ is 1 only after the Handshake of a composite command failed (R33, R148). -/
def Obligations.ResultSequence : Prop :=
  ∀ (i : Instr) (s t : State), exec i s = .next t → t.result.seq = true →
    (i = .clearScreen ∨ i.opcode = .setBaudRate) ∧ t.result.ok = false ∧ t.session = .idle

/-- The host's moves are taken one at a time and in order, and nothing else takes one (R285, R286; the list of moves is the
model's, log entry 6). -/
def Obligations.MovesInOrder : Prop :=
  ∀ s t : State, step s = .next t → t.env.moves = s.env.moves ∨ t.env.moves = s.env.moves.tail

/-! ## The equivalence of the two views, the decoders, the codes -/

/-- `DecodeAck` (R141): exact and case-sensitive, by the number of bytes received. -/
def Obligations.AckDecoder : Prop :=
  decodeAck [] = .fail .timeoutShortRead { kind := .timeout } ∧
    (∀ a, decodeAck [a] = .fail .timeoutShortRead { kind := .timeout, b0 := a }) ∧
    ∀ a b, decodeAck [a, b] =
      if a = 0x4F ∧ b = 0x4B then .ok { kind := .acknowledged, b0 := 0x4F, b1 := 0x4B, dom := true }
      else .fail .unexpectedReply { kind := .textStatus, b0 := a, b1 := b }

/-- `DecodeNumericAscii` (R144, R151): the value is the sum of the digits of the longest digit prefix times their powers of
ten, what follows it is ignored, and nine bytes never reach 10^9, so RES_NUM holds the value itself. -/
def Obligations.NumericDecoder : Prop :=
  ∀ digits rest : List Byte, digits ≠ [] → digits.length + rest.length ≤ 9 →
    (∀ d ∈ digits, 0x30 ≤ d ∧ d ≤ 0x39) → (∀ r, rest.head? = some r → r < 0x30 ∨ 0x39 < r) →
    ∃ p, decodeNumericAscii (digits ++ rest) = .ok p ∧ p.kind = .numericAscii ∧ p.num.toNat = digitSum digits ∧
      digitSum digits ≤ 999999999 ∧ p.b0 = (digits ++ rest).getD 0 0 ∧ p.b1 = (digits ++ rest).getD 1 0 ∧ p.dom = true

/-- A colour query can succeed with a pair that is not the one set, when the acknowledgement of another command arrives late:
replies carry nothing that ties them to a frame. How a late reply is given to the model is log entry 17. It rests on R74, R75
and R143; the spec infers it from them (R76). -/
def Obligations.LateReplyIsTaken : Prop :=
  ∃ s t u : State, s.Inv = true ∧ exec (.setDrawingColor 3 0) s = .next t ∧ t.result.ok = true ∧
    exec .getDrawingColor t = .next u ∧ u.result.ok = true ∧ u.result.err = .noError ∧ u.result.b0 = 0x4F ∧
    u.result.b1 = 0x4B ∧ u.result.e0 = Color.black.code ∧ u.result.e1 = Color.black.code ∧ u.result.dom = false

/-- The numeric codes of PH, S, RES_ERR and RES_KIND (R26, R31, R33, R230). -/
def Obligations.RegisterCodes : Prop :=
  [Phase.idle, .discard, .encode, .write, .settle, .read, .decode, .reconf, .done].map Phase.code =
      [0, 1, 2, 3, 4, 5, 6, 7, 8] ∧
    [Session.idle, .awaitingHandshake, .ready].map Session.code = [0, 1, 2] ∧
    [ErrorKind.noError, .encodingError, .transportError, .timeoutShortRead, .unexpectedReply].map ErrorKind.code =
      [0, 1, 2, 3, 4] ∧
    [ResponseKind.none, .acknowledged, .textStatus, .singleByteValue, .colorPair, .numericAscii, .timeout].map
      ResponseKind.code = [0, 1, 2, 3, 4, 5, 6]
end

