-- ==== Sys2Proof/Laws/Memory.lean ====
section
/-! SUPPORT. The laws of the byte buffers: a byte read after a write, the canonical form and the size are kept, and bytes read
back after a run of writes. -/

namespace Sys2Proof.Machine

/-- A canonical form from a higher address is one from a lower address. -/
theorem Memory.wfFrom_mono {m : Memory} {lo lo' : Nat} (h : lo' ≤ lo) (hm : m.wfFrom lo = true) : m.wfFrom lo' = true := by
  cases m with
  | nil => rfl
  | cons c rest =>
    simp only [Memory.wfFrom, Bool.and_eq_true, decide_eq_true_eq] at hm ⊢
    exact ⟨⟨by omega, hm.1.2⟩, hm.2⟩

/-- An address below a canonical form is unlisted. -/
theorem Memory.read_below_wfFrom {m : Memory} {lo a : Nat} (h : a < lo) (hm : m.wfFrom lo = true) :
    m.read a = Memory.unlisted := by
  induction m generalizing lo with
  | nil => rfl
  | cons c rest ih =>
    simp only [Memory.wfFrom, Bool.and_eq_true, decide_eq_true_eq] at hm
    have hne : a ≠ c.1 := by omega
    simp only [Memory.read, hne, if_false]
    exact ih (by omega) hm.2

/-- A write keeps the canonical form. -/
theorem Memory.wfFrom_write {m : Memory} {lo a : Nat} {b : Byte} (hm : m.wfFrom lo = true) (ha : lo ≤ a) :
    (m.write a b).wfFrom lo = true := by
  induction m generalizing lo with
  | nil =>
    simp only [Memory.write]
    split <;> simp_all [Memory.wfFrom]
  | cons c rest ih =>
    have hm' := hm
    simp only [Memory.wfFrom, Bool.and_eq_true, decide_eq_true_eq] at hm
    simp only [Memory.write]
    split
    · split
      · exact hm'
      · simp only [Memory.wfFrom, Bool.and_eq_true, decide_eq_true_eq]
        exact ⟨⟨ha, by simp_all⟩, ⟨by omega, hm.1.2⟩, hm.2⟩
    · split
      · split
        · exact Memory.wfFrom_mono (by omega) hm.2
        · simp only [Memory.wfFrom, Bool.and_eq_true, decide_eq_true_eq]
          exact ⟨⟨ha, by simp_all⟩, by subst_vars; exact hm.2⟩
      · simp only [Memory.wfFrom, Bool.and_eq_true, decide_eq_true_eq]
        exact ⟨hm.1, ih hm.2 (by omega)⟩

/-- A byte read after a write: the byte written at its address, the old byte elsewhere. -/
theorem Memory.read_write_from {m : Memory} {lo a c : Nat} {b : Byte} (hm : m.wfFrom lo = true) :
    (m.write a b).read c = if c = a then b else m.read c := by
  induction m generalizing lo with
  | nil =>
    simp only [Memory.write]
    split <;> simp_all [Memory.read]
  | cons d rest ih =>
    simp only [Memory.wfFrom, Bool.and_eq_true, decide_eq_true_eq] at hm
    simp only [Memory.write]
    split
    · rename_i hlt
      split
      · rename_i hb
        split
        · rename_i hc
          subst hc hb
          have hne : c ≠ d.1 := by omega
          simp only [Memory.read, hne, if_false]
          exact Memory.read_below_wfFrom (by omega) hm.2
        · rfl
      · simp only [Memory.read]
    · split
      · rename_i ha
        split
        · rename_i hb
          split
          · rename_i hc
            subst hc hb
            exact Memory.read_below_wfFrom (by omega) hm.2
          · rename_i hc
            simp only [Memory.read, show c ≠ d.1 by omega, if_false]
        · simp only [Memory.read]
          split
          · rfl
          · simp only [show c ≠ d.1 by omega, if_false]
      · rename_i hne
        simp only [Memory.read]
        split
        · simp only [show c ≠ a by omega, if_false]
        · exact ih hm.2

/-- A byte read after a write. -/
theorem Memory.read_write {m : Memory} (hm : m.wf = true) (a c : Nat) (b : Byte) :
    (m.write a b).read c = if c = a then b else m.read c :=
  Memory.read_write_from hm

/-- A write keeps the canonical form. -/
theorem Memory.wf_write {m : Memory} (hm : m.wf = true) (a : Nat) (b : Byte) : (m.write a b).wf = true :=
  Memory.wfFrom_write hm (Nat.zero_le a)

/-- A write below the size of a buffer stays within it. -/
theorem Memory.below_write {m : Memory} {n a : Nat} (hm : m.below n = true) (ha : a < n) (b : Byte) :
    (m.write a b).below n = true := by
  induction m with
  | nil =>
    simp only [Memory.write]
    split <;> simp_all [Memory.below]
  | cons c rest ih =>
    simp only [Memory.below, List.all_cons, Bool.and_eq_true, decide_eq_true_eq] at hm ih
    simp only [Memory.write]
    repeat' split
    all_goals simp_all [Memory.below]
    all_goals first | exact hm.2 | exact ih

/-- Writing bytes keeps the canonical form. -/
theorem Memory.wf_writeBytes {m : Memory} (hm : m.wf = true) (a : Nat) (bs : List Byte) :
    (m.writeBytes a bs).wf = true := by
  induction bs generalizing m a with
  | nil => exact hm
  | cons b rest ih => exact ih (Memory.wf_write hm a b) (a + 1)

/-- Writing bytes below the size of a buffer stays within it. -/
theorem Memory.below_writeBytes {m : Memory} {n : Nat} (hm : m.below n = true) (a : Nat) (bs : List Byte)
    (h : a + bs.length ≤ n) : (m.writeBytes a bs).below n = true := by
  induction bs generalizing m a with
  | nil => exact hm
  | cons b rest ih =>
    simp only [List.length_cons] at h
    exact ih (Memory.below_write hm (by omega) b) (a + 1) (by omega)

/-- Below the bytes written, a byte reads as before. -/
theorem Memory.read_writeBytes_before {m : Memory} (hm : m.wf = true) {a c : Nat} (bs : List Byte) (h : c < a) :
    (m.writeBytes a bs).read c = m.read c := by
  induction bs generalizing m a with
  | nil => rfl
  | cons b rest ih =>
    rw [Memory.writeBytes, ih (Memory.wf_write hm a b) (by omega), Memory.read_write hm, if_neg (by omega)]

/-- Bytes written read back. -/
theorem Memory.readBytes_writeBytes {m : Memory} (hm : m.wf = true) (a : Nat) (bs : List Byte) :
    (m.writeBytes a bs).readBytes a bs.length = bs := by
  induction bs generalizing m a with
  | nil => rfl
  | cons b rest ih =>
    have hw := Memory.wf_write hm a b
    simp only [List.length_cons, Memory.readBytes, Memory.writeBytes]
    rw [ih hw, Memory.read_writeBytes_before hw rest (by omega), Memory.read_write hm, if_pos rfl]

/-- At or above the end of the bytes written, a byte reads as before. -/
theorem Memory.read_writeBytes_after {m : Memory} (hm : m.wf = true) {a c : Nat} (bs : List Byte)
    (h : a + bs.length ≤ c) : (m.writeBytes a bs).read c = m.read c := by
  induction bs generalizing m a with
  | nil => rfl
  | cons b rest ih =>
    simp only [List.length_cons] at h
    rw [Memory.writeBytes, ih (Memory.wf_write hm a b) (by omega), Memory.read_write hm, if_neg (by omega)]

/-- As many bytes are read as were asked for. -/
@[simp] theorem Memory.readBytes_length (m : Memory) (a n : Nat) : (m.readBytes a n).length = n := by
  induction n generalizing a with
  | zero => rfl
  | succ k ih => simp [Memory.readBytes, ih]

/-- Bytes written in two runs are bytes written in one. -/
theorem Memory.writeBytes_append (m : Memory) (a : Nat) (xs ys : List Byte) :
    m.writeBytes a (xs ++ ys) = (m.writeBytes a xs).writeBytes (a + xs.length) ys := by
  induction xs generalizing m a with
  | nil => rfl
  | cons x rest ih =>
    simp only [List.cons_append, Memory.writeBytes, ih, List.length_cons]
    rw [Nat.add_right_comm, Nat.add_assoc]

end Sys2Proof.Machine
end

