-- ==== Sys2Proof/Laws/Codec.lean ====
section
/-! SUPPORT. The laws of the encoder: frame lengths and checksum, and what the in-place encoder leaves in FB, FLEN, CK and
IDX. -/

namespace Sys2Proof

/-- MAX_FRAME as a numeral. -/
@[simp] theorem Config.maxFrame_eq : Config.maxFrame = 1033 := rfl

/-- MAX_STR as a numeral. -/
@[simp] theorem Config.maxStr_eq : Config.maxStr = 1019 := rfl

/-- The overhead as a numeral. -/
@[simp] theorem Config.overhead_eq : Config.overhead = 9 := rfl

/-- A 16-bit field takes two bytes. -/
@[simp] theorem be16_length (v : Word16) : (be16 v).length = 2 := rfl

/-- A 32-bit field takes four bytes. -/
@[simp] theorem be32_length (v : Word32) : (be32 v).length = 4 := rfl

/-- The high byte, then the low byte, give the value back. -/
@[simp] theorem unbe16_be16 (v : Word16) : unbe16 (v.extractLsb' 8 8) (v.extractLsb' 0 8) = v := by
  apply BitVec.eq_of_getLsbD_eq
  intro i hi
  unfold unbe16
  rw [BitVec.getLsbD_append]
  simp only [BitVec.getLsbD_extractLsb']
  split
  · simp [*]
  · rw [show 8 + (i - 8) = i by omega]
    simp
    omega

/-- The bytes of a value put together from two bytes are these two bytes. -/
@[simp] theorem be16_unbe16 (a b : Byte) : be16 (unbe16 a b) = [a, b] := by
  unfold be16 unbe16
  congr 1
  · apply BitVec.eq_of_getLsbD_eq
    intro i hi
    rw [BitVec.getLsbD_extractLsb', BitVec.getLsbD_append]
    simp [hi]
  · congr 1
    apply BitVec.eq_of_getLsbD_eq
    intro i hi
    rw [BitVec.getLsbD_extractLsb', BitVec.getLsbD_append]
    simp [hi]

/-- The four bytes of a 32-bit value give it back. -/
@[simp] theorem unbe32_be32 (v : Word32) :
    unbe32 (v.extractLsb' 24 8) (v.extractLsb' 16 8) (v.extractLsb' 8 8) (v.extractLsb' 0 8) = v := by
  apply BitVec.eq_of_getLsbD_eq
  intro i hi
  unfold unbe32
  rw [BitVec.getLsbD_append, BitVec.getLsbD_append, BitVec.getLsbD_append]
  simp only [BitVec.getLsbD_extractLsb']
  repeat' split
  · simp [*]
  · rw [show 8 + (i - 8) = i by omega]
    simp only [Bool.and_eq_right_iff_imp, decide_eq_true_eq]
    omega
  · rw [show 16 + (i - 8 - 8) = i by omega]
    simp only [Bool.and_eq_right_iff_imp, decide_eq_true_eq]
    omega
  · rw [show 24 + (i - 8 - 8 - 8) = i by omega]
    simp only [Bool.and_eq_right_iff_imp, decide_eq_true_eq]
    omega

/-- The XOR of a longer sequence. -/
theorem xor8_append_singleton (s : List Byte) (b : Byte) : xor8 (s ++ [b]) = xor8 s ^^^ b := by
  simp [xor8]

/-- The bytes before the checksum: eight and the payload. -/
@[simp] theorem frameBody_length (op : Byte) (p : List Byte) : (frameBody op p).length = 8 + p.length := by
  simp [frameBody, Config.trailer]; omega

/-- The length law (R97). -/
@[simp] theorem frameBytes_length (op : Byte) (p : List Byte) : (frameBytes op p).length = 9 + p.length := by
  simp [frameBytes]; omega

/-- A whole frame folds to zero (R96). -/
theorem xor8_frameBytes (op : Byte) (p : List Byte) : xor8 (frameBytes op p) = 0 := by
  simp [frameBytes, xor8_append_singleton]

end Sys2Proof

namespace Sys2Proof.Machine

/-- What a run of `put` leaves in FB, CK, IDX and FLEN, as long as IDX does not wrap. -/
theorem Codec.foldl_put (bs : List Byte) (c : Codec) (h : c.idx.toNat + bs.length < 2048) :
    bs.foldl Codec.put c =
      { fb := c.fb.writeBytes c.idx.toNat bs, flen := c.flen, ck := bs.foldl (fun a b => a ^^^ b) c.ck,
        idx := c.idx + BitVec.ofNat 11 bs.length } := by
  induction bs generalizing c with
  | nil => simp [Memory.writeBytes]
  | cons b rest ih =>
    simp only [List.length_cons] at h
    have hi : (c.idx + 1).toNat = c.idx.toNat + 1 := by
      rw [BitVec.toNat_add, show (1 : BitVec 11).toNat = 1 from rfl]; omega
    rw [List.foldl_cons, ih (c.put b) (by simp only [Codec.put, hi]; omega)]
    simp only [Codec.put, hi, Memory.writeBytes, List.foldl_cons, List.length_cons, Codec.mk.injEq, true_and]
    rw [BitVec.add_assoc]
    congr 1
    apply BitVec.eq_of_toNat_eq
    simp only [BitVec.toNat_add, BitVec.toNat_ofNat, show (1 : BitVec 11).toNat = 1 from rfl]
    omega

/-- `FrameEncode` in closed form: it fails exactly when the frame is too long, and else FB holds the frame from address 0, FLEN
its length, CK its checksum and IDX the offset of the checksum (R99, R107). -/
theorem frameEncode_eq (op : Byte) (p : List Byte) (c : Codec) :
    frameEncode op p c =
      if 9 + p.length > 1033 then none
      else
        some
          { fb := c.fb.writeBytes 0 (frameBytes op p), flen := BitVec.ofNat 16 (9 + p.length),
            ck := xor8 (frameBody op p), idx := BitVec.ofNat 11 (8 + p.length) } := by
  by_cases h : 9 + p.length > 1033
  · rw [if_pos h]
    exact if_pos h
  · rw [if_neg h]
    refine (if_neg h).trans ?_
    have hl := frameBody_length op p
    have hi : ((0 : BitVec 11) + BitVec.ofNat 11 (8 + p.length)).toNat = 8 + p.length := by
      simp only [BitVec.toNat_add, BitVec.toNat_ofNat, show (0 : BitVec 11).toNat = 0 from rfl]; omega
    dsimp only
    rw [Codec.foldl_put (frameBody op p) _ (by rw [hl]; change 0 + _ < _; omega)]
    simp only [hl, hi, Option.some.injEq, Codec.mk.injEq]
    refine ⟨?_, rfl, rfl, by simp⟩
    rw [frameBytes, Memory.writeBytes_append, hl]
    simp [Memory.writeBytes, xor8]

/-- Where the encoder succeeds, the frame that stands in FB is the frame of the opcode and the payload (R61). -/
theorem frame_of_frameEncode {op : Byte} {p : List Byte} {c d : Codec} (hm : c.fb.wf = true)
    (h : frameEncode op p c = some d) : d.frame = frameBytes op p := by
  rw [frameEncode_eq] at h
  split at h
  · cases h
  · obtain rfl := Option.some.inj h
    have hn : (BitVec.ofNat 16 (9 + p.length)).toNat = (frameBytes op p).length := by
      simp only [frameBytes_length, BitVec.toNat_ofNat]; omega
    simp only [Codec.frame, hn]
    exact Memory.readBytes_writeBytes hm 0 _

/-- The encoder keeps FB canonical and within its size, and FLEN within MAX_FRAME. -/
theorem frameEncode_keeps {op : Byte} {p : List Byte} {c d : Codec} (hw : c.fb.wf = true) (hb : c.fb.below 1033 = true)
    (h : frameEncode op p c = some d) : d.fb.wf = true ∧ d.fb.below 1033 = true ∧ d.flen.toNat ≤ 1033 := by
  rw [frameEncode_eq] at h
  split at h
  · cases h
  · obtain rfl := Option.some.inj h
    refine ⟨Memory.wf_writeBytes hw 0 _, Memory.below_writeBytes hb 0 _ ?_, ?_⟩
    · simp only [frameBytes_length]; omega
    · simp only [BitVec.toNat_ofNat]; omega

end Sys2Proof.Machine
end

