-- ==== Sys2Proof/Laws/State.lean ====
section
/-! SUPPORT. What each update of the state leaves alone and what it writes: one lemma per field and update, so that no proof
unfolds a record update. -/

namespace Sys2Proof.Machine

@[simp] theorem State.issue_codec (s : State) (c : RawIssue) : (s.issue c).codec = s.codec := rfl
@[simp] theorem State.issue_reply (s : State) (c : RawIssue) : (s.issue c).reply = s.reply := rfl
@[simp] theorem State.issue_session (s : State) (c : RawIssue) : (s.issue c).session = s.session := rfl
@[simp] theorem State.issue_env (s : State) (c : RawIssue) : (s.issue c).env = s.env := rfl

@[simp] theorem State.beginTransaction_latch (s : State) (o : Byte) : (s.beginTransaction o).latch = s.latch := rfl
@[simp] theorem State.beginTransaction_ph (s : State) (o : Byte) : (s.beginTransaction o).ph = s.ph := rfl
@[simp] theorem State.beginTransaction_seq (s : State) (o : Byte) : (s.beginTransaction o).seq = s.seq := rfl
@[simp] theorem State.beginTransaction_codec (s : State) (o : Byte) : (s.beginTransaction o).codec = s.codec := rfl
@[simp] theorem State.beginTransaction_reply (s : State) (o : Byte) : (s.beginTransaction o).reply = s.reply := rfl
@[simp] theorem State.beginTransaction_result (s : State) (o : Byte) : (s.beginTransaction o).result = s.result := rfl

@[simp] theorem State.freeIdx_latch (s : State) : s.freeIdx.latch = s.latch := rfl
@[simp] theorem State.freeIdx_ph (s : State) : s.freeIdx.ph = s.ph := rfl
@[simp] theorem State.freeIdx_seq (s : State) : s.freeIdx.seq = s.seq := rfl
@[simp] theorem State.freeIdx_reply (s : State) : s.freeIdx.reply = s.reply := rfl
@[simp] theorem State.freeIdx_session (s : State) : s.freeIdx.session = s.session := rfl
@[simp] theorem State.freeIdx_result (s : State) : s.freeIdx.result = s.result := rfl

@[simp] theorem State.sendFrame_latch (s : State) : s.sendFrame.2.latch = s.latch := rfl
@[simp] theorem State.sendFrame_ph (s : State) : s.sendFrame.2.ph = s.ph := rfl
@[simp] theorem State.sendFrame_seq (s : State) : s.sendFrame.2.seq = s.seq := rfl
@[simp] theorem State.sendFrame_reply (s : State) : s.sendFrame.2.reply = s.reply := rfl
@[simp] theorem State.sendFrame_session (s : State) : s.sendFrame.2.session = s.session := rfl
@[simp] theorem State.sendFrame_result (s : State) : s.sendFrame.2.result = s.result := rfl

@[simp] theorem State.settle_latch (s : State) (o : Byte) : (s.settle o).latch = s.latch := rfl
@[simp] theorem State.settle_ph (s : State) (o : Byte) : (s.settle o).ph = s.ph := rfl
@[simp] theorem State.settle_seq (s : State) (o : Byte) : (s.settle o).seq = s.seq := rfl
@[simp] theorem State.settle_codec (s : State) (o : Byte) : (s.settle o).codec = s.codec := rfl
@[simp] theorem State.settle_reply (s : State) (o : Byte) : (s.settle o).reply = s.reply := rfl
@[simp] theorem State.settle_session (s : State) (o : Byte) : (s.settle o).session = s.session := rfl
@[simp] theorem State.settle_result (s : State) (o : Byte) : (s.settle o).result = s.result := rfl

@[simp] theorem State.settleSession_latch (s : State) (o : Byte) (out : TxOut) : (s.settleSession o out).latch = s.latch := rfl
@[simp] theorem State.settleSession_ph (s : State) (o : Byte) (out : TxOut) : (s.settleSession o out).ph = s.ph := rfl
@[simp] theorem State.settleSession_seq (s : State) (o : Byte) (out : TxOut) : (s.settleSession o out).seq = s.seq := rfl
@[simp] theorem State.settleSession_codec (s : State) (o : Byte) (out : TxOut) : (s.settleSession o out).codec = s.codec := rfl
@[simp] theorem State.settleSession_reply (s : State) (o : Byte) (out : TxOut) : (s.settleSession o out).reply = s.reply := rfl
@[simp] theorem State.settleSession_result (s : State) (o : Byte) (out : TxOut) : (s.settleSession o out).result = s.result := rfl
@[simp] theorem State.settleSession_env (s : State) (o : Byte) (out : TxOut) : (s.settleSession o out).env = s.env := rfl

@[simp] theorem State.recordOutcome_latch (s : State) (out : TxOut) : (s.recordOutcome out).latch = s.latch := rfl
@[simp] theorem State.recordOutcome_ph (s : State) (out : TxOut) : (s.recordOutcome out).ph = s.ph := rfl
@[simp] theorem State.recordOutcome_seq (s : State) (out : TxOut) : (s.recordOutcome out).seq = s.seq := rfl
@[simp] theorem State.recordOutcome_codec (s : State) (out : TxOut) : (s.recordOutcome out).codec = s.codec := rfl
@[simp] theorem State.recordOutcome_reply (s : State) (out : TxOut) : (s.recordOutcome out).reply = s.reply := rfl
@[simp] theorem State.recordOutcome_session (s : State) (out : TxOut) : (s.recordOutcome out).session = s.session := rfl
@[simp] theorem State.recordOutcome_env (s : State) (out : TxOut) : (s.recordOutcome out).env = s.env := rfl

@[simp] theorem State.finish_latch (s : State) : s.finish.latch = s.latch := rfl
@[simp] theorem State.finish_seq (s : State) : s.finish.seq = s.seq := rfl
@[simp] theorem State.finish_codec (s : State) : s.finish.codec = s.codec := rfl
@[simp] theorem State.finish_reply (s : State) : s.finish.reply = s.reply := rfl
@[simp] theorem State.finish_session (s : State) : s.finish.session = s.session := rfl
@[simp] theorem State.finish_env (s : State) : s.finish.env = s.env := rfl

@[simp] theorem State.popMove_latch (s : State) : s.popMove.latch = s.latch := rfl
@[simp] theorem State.popMove_ph (s : State) : s.popMove.ph = s.ph := rfl
@[simp] theorem State.popMove_seq (s : State) : s.popMove.seq = s.seq := rfl
@[simp] theorem State.popMove_codec (s : State) : s.popMove.codec = s.codec := rfl
@[simp] theorem State.popMove_reply (s : State) : s.popMove.reply = s.reply := rfl
@[simp] theorem State.popMove_session (s : State) : s.popMove.session = s.session := rfl
@[simp] theorem State.popMove_result (s : State) : s.popMove.result = s.result := rfl

@[simp] theorem State.arrive_latch (s : State) (bs : List Byte) : (s.arrive bs).latch = s.latch := rfl
@[simp] theorem State.arrive_ph (s : State) (bs : List Byte) : (s.arrive bs).ph = s.ph := rfl
@[simp] theorem State.arrive_seq (s : State) (bs : List Byte) : (s.arrive bs).seq = s.seq := rfl
@[simp] theorem State.arrive_codec (s : State) (bs : List Byte) : (s.arrive bs).codec = s.codec := rfl
@[simp] theorem State.arrive_reply (s : State) (bs : List Byte) : (s.arrive bs).reply = s.reply := rfl
@[simp] theorem State.arrive_session (s : State) (bs : List Byte) : (s.arrive bs).session = s.session := rfl
@[simp] theorem State.arrive_result (s : State) (bs : List Byte) : (s.arrive bs).result = s.result := rfl
@[simp] theorem State.arrive_env (s : State) (bs : List Byte) :
    (s.arrive bs).env = { s.env with inbound := s.env.inbound ++ bs } := rfl

@[simp] theorem State.resetBlock_env (s : State) : s.resetBlock.env = s.env := rfl

@[simp] theorem State.readReply_latch (s : State) (o : Byte) (n : Nat) : (s.readReply o n).2.latch = s.latch := by
  unfold State.readReply; dsimp only; split <;> rfl
@[simp] theorem State.readReply_ph (s : State) (o : Byte) (n : Nat) : (s.readReply o n).2.ph = s.ph := by
  unfold State.readReply; dsimp only; split <;> rfl
@[simp] theorem State.readReply_seq (s : State) (o : Byte) (n : Nat) : (s.readReply o n).2.seq = s.seq := by
  unfold State.readReply; dsimp only; split <;> rfl
@[simp] theorem State.readReply_codec (s : State) (o : Byte) (n : Nat) : (s.readReply o n).2.codec = s.codec := by
  unfold State.readReply; dsimp only; split <;> rfl
@[simp] theorem State.readReply_session (s : State) (o : Byte) (n : Nat) : (s.readReply o n).2.session = s.session := by
  unfold State.readReply; dsimp only; split <;> rfl
@[simp] theorem State.readReply_result (s : State) (o : Byte) (n : Nat) : (s.readReply o n).2.result = s.result := by
  unfold State.readReply; dsimp only; split <;> rfl

/-- The issue of a command latches what the host wrote (R130). -/
@[simp] theorem State.issue_latch (s : State) (c : RawIssue) : (s.issue c).latch = s.latch.accept c := rfl

/-- The issue of a command starts at PH_DISCARD (R130). -/
@[simp] theorem State.issue_ph (s : State) (c : RawIssue) : (s.issue c).ph = .discard := rfl

/-- The issue of a command starts the first transaction (R130). -/
@[simp] theorem State.issue_seq (s : State) (c : RawIssue) : (s.issue c).seq = false := rfl

/-- The issue of a command clears RES_VALID and no other result register (R130). -/
@[simp] theorem State.issue_result (s : State) (c : RawIssue) :
    (s.issue c).result = { s.result with valid := false } := rfl

/-- A Handshake begins with S at AwaitingHandshake (R132). -/
@[simp] theorem State.beginTransaction_session (s : State) (o : Byte) :
    (s.beginTransaction o).session = if o = 0x00 then .awaitingHandshake else s.session := rfl

/-- A transaction begins with the discard (R132). -/
@[simp] theorem State.beginTransaction_env (s : State) (o : Byte) :
    (s.beginTransaction o).env = s.env.discardBuffered := rfl

/-- A Handshake moves S at its end, another transaction does not (R138). -/
@[simp] theorem State.settleSession_session (s : State) (o : Byte) (out : TxOut) :
    (s.settleSession o out).session =
      if o = 0x00 then (if out.isOk then .ready else .idle) else s.session := rfl

/-- The outcome goes to the result registers (R139). -/
@[simp] theorem State.recordOutcome_result (s : State) (out : TxOut) :
    (s.recordOutcome out).result = out.record s.seq s.result := rfl

/-- A finished command leaves the block idle (R138). -/
@[simp] theorem State.finish_ph (s : State) : s.finish.ph = .idle := rfl

/-- A finished command sets RES_VALID (R138). -/
@[simp] theorem State.finish_result (s : State) : s.finish.result = { s.result with valid := true } := rfl

/-- A write leaves FB, FLEN and CK alone. -/
@[simp] theorem State.sendFrame_codec (s : State) :
    s.sendFrame.2.codec = { s.codec with idx := Config.freeIdx (s.env.write s.codec.frame).2.draws } := rfl

end Sys2Proof.Machine
end

