-- ==== Sys2Proof/Laws/Transaction.lean ====
section
/-! SUPPORT. What a transaction does (R149): its frame, whatever the Transport answers, and its state in full for each kind of
answer. -/

namespace Sys2Proof.Machine

/-! ## The Transport's calls -/

/-- A write takes the first answer given. -/
theorem Env.write_of_given {e : Env} {a : WriteAnswer} {ws : List WriteAnswer} (h : e.writeAnswers = a :: ws)
    (f : List Byte) : e.write f = (a, { e with writeAnswers := ws, trace := .write f a :: e.trace }) := by
  simp [Env.write, Env.nextWrite, h]

/-- A read takes the first answer given: an I/O error. -/
theorem Env.readExact_of_ioerr {e : Env} {left : List Byte} {rs : List ReadAnswer} (h : e.readAnswers = .ioerr left :: rs)
    (n : Nat) (o : Byte) :
    e.readExact n o =
      (none, { e with readAnswers := rs, inbound := left, trace := .read n (Config.tTimeout o) none :: e.trace }) := by
  simp [Env.readExact, Env.nextRead, h]

/-- A read takes the first answer given: bytes that arrive behind the buffered ones that are not lost. -/
theorem Env.readExact_of_arrived {e : Env} {bs : List Byte} {k lost : Nat} {rs : List ReadAnswer}
    (h : e.readAnswers = .arrived bs k lost :: rs) (n : Nat) (o : Byte) :
    e.readExact n o =
      (some ((e.inbound.drop lost ++ bs).take (min k n)),
        { e with
          readAnswers := rs
          inbound := (e.inbound.drop lost ++ bs).drop (min k n)
          trace := .read n (Config.tTimeout o) (some ((e.inbound.drop lost ++ bs).take (min k n))) :: e.trace }) := by
  simp [Env.readExact, Env.nextRead, h]

/-- A read hands over at most as many bytes as it was asked for (R74, R247). -/
theorem Env.readExact_length {e : Env} {n : Nat} {o : Byte} {bs : List Byte} (h : (e.readExact n o).1 = some bs) :
    bs.length ≤ n := by
  unfold Env.readExact at h
  dsimp only at h
  split at h
  · cases h
  · cases h
    simp

/-- No call of the Transport touches the host's moves. -/
@[simp] theorem Env.write_moves (e : Env) (f : List Byte) : (e.write f).2.moves = e.moves := by
  simp only [Env.write, Env.nextWrite]; split <;> rfl

@[simp] theorem Env.readExact_moves (e : Env) (n : Nat) (o : Byte) : (e.readExact n o).2.moves = e.moves := by
  unfold Env.readExact Env.nextRead; dsimp only; repeat' split
  all_goals rfl

/-! ## The frame of a transaction, whatever the Transport answers -/

/-- The outcome closes the transaction without touching anything but S. -/
@[simp] theorem closeTransaction_fst (s : State) (o : Byte) (out : TxOut) :
    (s.closeTransaction o out).1 = s.settleSession o out := rfl

@[simp] theorem closeTransaction_snd (s : State) (o : Byte) (out : TxOut) : (s.closeTransaction o out).2 = out := rfl

/-- A transaction whose encode succeeds sends the frame and goes on by the answer (R149). -/
theorem transaction_of_encoded {o : Byte} {p : List Byte} {s : State} {c : Codec} (shape : Shape) (n : Nat)
    (h : frameEncode o p s.codec = some c) :
    transaction o p shape n s = afterWrite o shape n (State.sendFrame { s.beginTransaction o with codec := c }) := by
  unfold transaction
  simp only [State.beginTransaction_codec, h]

/-- A transaction whose frame would be too long ends with EncodingError after the discard (R99). -/
theorem transaction_of_tooLong {o : Byte} {p : List Byte} {s : State} (shape : Shape) (n : Nat)
    (h : frameEncode o p s.codec = none) : transaction o p shape n s = encodingFailure o s := by
  unfold transaction encodingFailure
  simp only [State.beginTransaction_codec, h]

/-- What follows a write touches neither the latch, PH, SEQ nor the result registers, and S is settled by the outcome. -/
theorem afterWrite_frame (o : Byte) (shape : Shape) (n : Nat) (q : WriteAnswer × State) :
    (afterWrite o shape n q).1.latch = q.2.latch ∧ (afterWrite o shape n q).1.ph = q.2.ph ∧
      (afterWrite o shape n q).1.seq = q.2.seq ∧ (afterWrite o shape n q).1.result = q.2.result ∧
      (afterWrite o shape n q).1.session =
        (if o = 0x00 then (if (afterWrite o shape n q).2.isOk then .ready else .idle) else q.2.session) := by
  unfold afterWrite
  split
  · exact ⟨rfl, rfl, rfl, rfl, rfl⟩
  · split
    · unfold afterRead
      split
      all_goals
        refine ⟨?_, ?_, ?_, ?_, ?_⟩
        all_goals simp only [closeTransaction_fst, closeTransaction_snd, State.settleSession_latch,
          State.settleSession_ph, State.settleSession_seq, State.settleSession_result, State.settleSession_session,
          State.readReply_latch, State.readReply_ph, State.readReply_seq, State.readReply_result,
          State.readReply_session, State.settle_latch, State.settle_ph, State.settle_seq, State.settle_result,
          State.settle_session]
        all_goals rfl
    · exact ⟨rfl, rfl, rfl, rfl, rfl⟩

/-- A transaction touches neither the latch, PH, SEQ nor the result registers (R149), and S is settled by its outcome (R138). -/
theorem transaction_frame (o : Byte) (p : List Byte) (shape : Shape) (n : Nat) (s : State) :
    (transaction o p shape n s).1.latch = s.latch ∧ (transaction o p shape n s).1.ph = s.ph ∧
      (transaction o p shape n s).1.seq = s.seq ∧ (transaction o p shape n s).1.result = s.result ∧
      (transaction o p shape n s).1.session =
        (if o = 0x00 then (if (transaction o p shape n s).2.isOk then .ready else .idle) else s.session) := by
  cases h : frameEncode o p s.codec with
  | none =>
    rw [transaction_of_tooLong shape n h]
    refine ⟨rfl, rfl, rfl, rfl, ?_⟩
    by_cases ho : o = 0x00
    · exact (if_pos ho).trans (if_pos ho).symm
    · exact ((if_neg ho).trans (if_neg ho)).trans (if_neg ho).symm
  | some c =>
    rw [transaction_of_encoded shape n h]
    obtain ⟨h1, h2, h3, h4, h5⟩ :=
      afterWrite_frame o shape n (State.sendFrame { s.beginTransaction o with codec := c })
    refine ⟨h1, h2, h3, h4, h5.trans ?_⟩
    by_cases ho : o = 0x00
    · exact (if_pos ho).trans (if_pos ho).symm
    · exact ((if_neg ho).trans (if_neg ho)).trans (if_neg ho).symm

/-! ## The state after a transaction, for each kind of answer -/

/-- A payload that fits is encoded. -/
theorem frameEncode_of_fits (o : Byte) (c : Codec) {p : List Byte} (hp : 9 + p.length ≤ 1033) :
    ∃ d, frameEncode o p c = some d := by
  rw [frameEncode_eq, if_neg (by omega)]
  exact ⟨_, rfl⟩

/-- The codec after an encode that succeeded and a write: the frame in FB from address 0, FLEN, CK, and a free value in IDX. -/
def Codec.sent (c : Codec) (o : Byte) (p : List Byte) (draws : Nat) : Codec :=
  { fb := c.fb.writeBytes 0 (frameBytes o p), flen := BitVec.ofNat 16 (9 + p.length), ck := xor8 (frameBody o p),
    idx := Config.freeIdx draws }

/-- The frame goes out as it was encoded. -/
theorem sendFrame_of_given {o : Byte} {p : List Byte} {s : State} {a : WriteAnswer} {ws : List WriteAnswer} {c : Codec}
    (hm : s.codec.fb.wf = true) (h : frameEncode o p s.codec = some c) (hw : s.env.writeAnswers = a :: ws) :
    State.sendFrame { s.beginTransaction o with codec := c } =
      (a,
        { s.beginTransaction o with
          codec := s.codec.sent o p s.env.draws
          env :=
            { s.env with
              inbound := []
              writeAnswers := ws
              draws := s.env.draws + 1
              trace := .write (frameBytes o p) a :: .discard :: s.env.trace } }) := by
  have hf := frame_of_frameEncode hm h
  have he := h
  rw [frameEncode_eq] at he
  split at he
  · cases he
  · have hc := Option.some.inj he
    have hwb : ({ s.beginTransaction o with codec := c } : State).env.writeAnswers = a :: ws := hw
    unfold State.sendFrame
    rw [Env.write_of_given hwb]
    rw [show ({ s.beginTransaction o with codec := c } : State).codec.frame = frameBytes o p from hf]
    subst hc
    rfl

/-- The reply of a transaction arrives: the state in full (R149). -/
theorem transaction_of_reply {o : Byte} {p : List Byte} {shape : Shape} {s : State} {ws : List WriteAnswer}
    {bs : List Byte} {k lost : Nat} {rs : List ReadAnswer} (n : Nat) (hm : s.codec.fb.wf = true) (hp : 9 + p.length ≤ 1033)
    (hr : shape.reads = true) (hw : s.env.writeAnswers = .ok :: ws) (ha : s.env.readAnswers = .arrived bs k lost :: rs) :
    transaction o p shape n s =
      ({ s with
          session :=
            if o = 0x00 then (if (decodeReply shape (bs.take (min k n))).isOk then .ready else .idle) else s.session
          codec := s.codec.sent o p s.env.draws
          reply :=
            { rb := s.reply.rb.writeBytes 0 (bs.take (min k n)), rexp := BitVec.ofNat 4 n,
              rcnt := BitVec.ofNat 4 (bs.take (min k n)).length }
          env :=
            { s.env with
              inbound := bs.drop (min k n)
              writeAnswers := ws
              readAnswers := rs
              draws := s.env.draws + 1
              trace :=
                .read n (Config.tTimeout o) (some (bs.take (min k n))) :: .settle (Config.tSettle o) ::
                  .write (frameBytes o p) .ok :: .discard :: s.env.trace } },
        decodeReply shape (bs.take (min k n))) := by
  obtain ⟨c, h⟩ := frameEncode_of_fits o s.codec hp
  rw [transaction_of_encoded shape n h, sendFrame_of_given hm h hw, afterWrite]
  simp only [hr, if_true]
  unfold afterRead State.readReply
  rw [Env.readExact_of_arrived (bs := bs) (k := k) (lost := lost) (rs := rs) (by exact ha)]
  by_cases ho : o = 0#8 <;> simp [State.settle, Env.settle, State.closeTransaction, State.settleSession, State.beginTransaction, ho]

/-- The read of a transaction fails: REXP is written, RB and RCNT are not (R136). -/
theorem transaction_of_readError {o : Byte} {p : List Byte} {shape : Shape} {s : State} {ws : List WriteAnswer}
    {left : List Byte} {rs : List ReadAnswer} (n : Nat) (hm : s.codec.fb.wf = true) (hp : 9 + p.length ≤ 1033)
    (hr : shape.reads = true) (hw : s.env.writeAnswers = .ok :: ws) (ha : s.env.readAnswers = .ioerr left :: rs) :
    transaction o p shape n s =
      ({ s with
          session := if o = 0x00 then .idle else s.session
          codec := s.codec.sent o p s.env.draws
          reply := { s.reply with rexp := BitVec.ofNat 4 n }
          env :=
            { s.env with
              inbound := left
              writeAnswers := ws
              readAnswers := rs
              draws := s.env.draws + 1
              trace :=
                .read n (Config.tTimeout o) none :: .settle (Config.tSettle o) ::
                  .write (frameBytes o p) .ok :: .discard :: s.env.trace } },
        .fail .transportError {}) := by
  obtain ⟨c, h⟩ := frameEncode_of_fits o s.codec hp
  rw [transaction_of_encoded shape n h, sendFrame_of_given hm h hw, afterWrite]
  simp only [hr, if_true]
  unfold afterRead State.readReply
  rw [Env.readExact_of_ioerr (left := left) (rs := rs) (by exact ha)]
  by_cases ho : o = 0#8 <;>
    simp [State.settle, Env.settle, State.closeTransaction, State.settleSession, State.beginTransaction, TxOut.isOk, ho]

/-- The write of a transaction fails: neither settle nor read (R134). -/
theorem transaction_of_writeError {o : Byte} {p : List Byte} {s : State} {ws : List WriteAnswer} (shape : Shape)
    (n : Nat) (hm : s.codec.fb.wf = true) (hp : 9 + p.length ≤ 1033) (hw : s.env.writeAnswers = .ioerr :: ws) :
    transaction o p shape n s =
      ({ s with
          session := if o = 0x00 then .idle else s.session
          codec := s.codec.sent o p s.env.draws
          env :=
            { s.env with
              inbound := []
              writeAnswers := ws
              draws := s.env.draws + 1
              trace := .write (frameBytes o p) .ioerr :: .discard :: s.env.trace } },
        .fail .transportError {}) := by
  obtain ⟨c, h⟩ := frameEncode_of_fits o s.codec hp
  rw [transaction_of_encoded shape n h, sendFrame_of_given hm h hw, afterWrite]
  by_cases ho : o = 0#8 <;>
    simp [State.closeTransaction, State.settleSession, State.beginTransaction, TxOut.isOk, ho]

/-- A transaction without a reply ends once its frame is written (R145). -/
theorem transaction_of_noReply {o : Byte} {p : List Byte} {shape : Shape} {s : State} {ws : List WriteAnswer} (n : Nat)
    (hm : s.codec.fb.wf = true) (hp : 9 + p.length ≤ 1033) (hr : shape.reads = false)
    (hw : s.env.writeAnswers = .ok :: ws) :
    transaction o p shape n s =
      ({ s with
          session := if o = 0x00 then .ready else s.session
          codec := s.codec.sent o p s.env.draws
          env :=
            { s.env with
              inbound := []
              writeAnswers := ws
              draws := s.env.draws + 1
              trace := .write (frameBytes o p) .ok :: .discard :: s.env.trace } },
        noReply) := by
  obtain ⟨c, h⟩ := frameEncode_of_fits o s.codec hp
  rw [transaction_of_encoded shape n h, sendFrame_of_given hm h hw, afterWrite]
  by_cases ho : o = 0#8 <;>
    simp [State.closeTransaction, State.settleSession, State.beginTransaction, TxOut.isOk, noReply, hr, ho]

end Sys2Proof.Machine
end

