-- ==== Sys2Proof/Laws/Commands.lean ====
section
/-! SUPPORT. What one transaction and one command do, by the exchange with the Transport (Safety.lean). -/

namespace Sys2Proof.Machine

/-- The outcome of a transaction, by the exchange (R149). -/
def Exchange.outcome (shape : Shape) (n : Nat) : Exchange → TxOut
  | .writeError | .readError _ => .fail .transportError {}
  | .noRead => noReply
  | .reply got _ _ => decodeReply shape (got.take n)

/-- What a read hands over of the bytes an exchange offers. -/
theorem take_offered (got rest : List Byte) (n : Nat) : (got ++ rest).take (min got.length n) = got.take n := by
  rw [List.take_append_of_le_length (Nat.min_le_left _ _), Nat.min_comm, ← List.take_take, List.take_length]

/-- What a read leaves buffered of the bytes an exchange offers. -/
theorem drop_offered (got rest : List Byte) (n : Nat) :
    (got ++ rest).drop (min got.length n) = got.drop n ++ rest := by
  rw [List.drop_append_of_le_length (Nat.min_le_left _ _)]
  rcases Nat.le_total got.length n with h | h
  · rw [Nat.min_eq_left h, List.drop_length, List.drop_eq_nil_of_le h]
  · rw [Nat.min_eq_right h]

/-- A transaction does what the exchange says: the Transport calls, the frame, the reply side; only a Handshake moves S; IDX is
a free value. -/
theorem transaction_of_exchange {o : Byte} {p : List Byte} {shape : Shape} {s : State} {x : Exchange}
    {ws : List WriteAnswer} {rs : List ReadAnswer} (n : Nat) (hm : s.codec.fb.wf = true) (hp : 9 + p.length ≤ 1033)
    (hx : x = .writeError ∨ shape.reads = (x != .noRead)) (hw : s.env.writeAnswers = x.writes ++ ws)
    (hr : s.env.readAnswers = x.reads ++ rs) :
    transaction o p shape n s =
      ({ s.exchanged o p n x with
          session := if o = 0x00 then (if (x.outcome shape n).isOk then .ready else .idle) else s.session
          codec := s.codec.sent o p s.env.draws
          env := { (s.exchanged o p n x).env with draws := s.env.draws + 1 } },
        x.outcome shape n) := by
  cases x with
  | writeError =>
    have hw' : s.env.writeAnswers = .ioerr :: ws := hw
    rw [transaction_of_writeError shape n hm hp hw']
    simp [State.exchanged, Exchange.outcome, Exchange.calls, Exchange.left, Exchange.reads, Reply.after, TxOut.isOk, hw']
  | noRead =>
    have hw' : s.env.writeAnswers = .ok :: ws := hw
    have hs : shape.reads = false := by simpa using hx
    rw [transaction_of_noReply n hm hp hs hw']
    simp [State.exchanged, Exchange.outcome, Exchange.calls, Exchange.left, Exchange.reads, Reply.after, TxOut.isOk,
      noReply, hw']
  | readError left =>
    have hw' : s.env.writeAnswers = .ok :: ws := hw
    have hr' : s.env.readAnswers = .ioerr left :: rs := hr
    have hs : shape.reads = true := hx.elim (fun h => by cases h) (fun h => h.trans rfl)
    rw [transaction_of_readError n hm hp hs hw' hr']
    simp [State.exchanged, Exchange.outcome, Exchange.calls, Exchange.left, Exchange.reads, Reply.after, TxOut.isOk, hw',
      hr']
  | reply got rest lost =>
    have hw' : s.env.writeAnswers = .ok :: ws := hw
    have hr' : s.env.readAnswers = .arrived (got ++ rest) got.length lost :: rs := hr
    have hs : shape.reads = true := hx.elim (fun h => by cases h) (fun h => h.trans rfl)
    rw [transaction_of_reply n hm hp hs hw' hr', take_offered, drop_offered]
    rw [show (Exchange.reply got rest lost).outcome shape n = decodeReply shape (got.take n) from rfl]
    generalize decodeReply shape (got.take n) = out
    by_cases ho : o = 0#8 <;> cases out <;>
      simp [State.exchanged, TxOut.isOk, Exchange.calls, Exchange.left, Exchange.reads, Reply.after, hw', hr', ho]

/-- A command issued at PH_IDLE runs its body from the state after the issue (R130). -/
theorem runCommand_of_idle {c : RawIssue} {body : State → State} {s : State} (h : s.ph = .idle) :
    runCommand c body s = .next (State.finish (body (s.issue c))) := if_pos h

/-- What stands at the end of a command of one transaction: PH_IDLE and the recorded outcome, valid (R138, R139). -/
theorem finish_conclude (s : State) (out : TxOut) :
    State.finish (conclude (s, out)) =
      { s with ph := .idle, result := { out.record s.seq s.result with valid := true } } := rfl

/-- The Ack decoder writes the Ack result registers (R141, R139). -/
theorem record_ack (seq : Bool) (r : Result) {x : Exchange} (hx : x ≠ .noRead) :
    { (x.outcome .ack 2).record seq r with valid := true } = ackResult seq x := by
  cases x with
  | noRead => exact absurd rfl hx
  | writeError | readError _ => rfl
  | reply got rest lost =>
    match got with
    | [] | [_] => rfl
    | a :: b :: more =>
      by_cases ha : a = 79#8 <;> by_cases hb : b = 75#8 <;>
        simp [Exchange.outcome, decodeReply, decodeAck, replyByte, TxOut.record, ackResult, Result.succeeded,
          Result.failed, ha, hb]

/-- An Ack transaction succeeds exactly if its result registers say so. -/
theorem outcome_ack_isOk (seq : Bool) {x : Exchange} (hx : x ≠ .noRead) :
    (x.outcome .ack 2).isOk = (ackResult seq x).ok := by
  rw [← record_ack seq State.reset.result hx]
  cases x.outcome .ack 2 <;> rfl

end Sys2Proof.Machine
end

