-- ==== Sys2Proof/Laws/PerInstr.lean ====
section
/-! SUPPORT. What holds of every command as syntax, one lemma per constructor. -/

namespace Sys2Proof.Laws.FrameShape

/-- The opcode byte of a command names that command (R104), its frame is nine bytes longer than its payload (R97), and the XOR
of all its frame bytes is 0 (R96, R109). -/
def Statement (i : Instr) : Prop :=
  Opcode.ofByte i.opcode.byte = some i.opcode ∧ (encode i).length = 9 + i.payload.length ∧ xor8 (encode i) = 0

/-- An opcode byte determines the command. -/
theorem ofByte_byte (o : Opcode) : Opcode.ofByte o.byte = some o := by cases o <;> decide

/-- The statement for any command, from the laws of the codec. -/
theorem of_laws (i : Instr) : Statement i :=
  ⟨ofByte_byte i.opcode, frameBytes_length i.opcode.byte i.payload, xor8_frameBytes i.opcode.byte i.payload⟩

theorem handshake : Statement .handshake := of_laws _

theorem setBaudRate (a : Word32) : Statement (.setBaudRate a) := of_laws _

theorem getBaudRate (a : BitVec 4) : Statement (.getBaudRate a) := of_laws _

theorem getStorageArea : Statement .getStorageArea := of_laws _

theorem setStorageArea (a : Word16) : Statement (.setStorageArea a) := of_laws _

theorem enterSleep : Statement .enterSleep := of_laws _

theorem refresh : Statement .refresh := of_laws _

theorem getDisplayDirection : Statement .getDisplayDirection := of_laws _

theorem setDisplayDirection (a : Word16) : Statement (.setDisplayDirection a) := of_laws _

theorem importFontLibrary : Statement .importFontLibrary := of_laws _

theorem importImage : Statement .importImage := of_laws _

theorem setDrawingColor (a b : Word16) : Statement (.setDrawingColor a b) := of_laws _

theorem getDrawingColor : Statement .getDrawingColor := of_laws _

theorem getEnglishFontSize : Statement .getEnglishFontSize := of_laws _

theorem getChineseFontSize : Statement .getChineseFontSize := of_laws _

theorem setEnglishFontSize (a : Word16) : Statement (.setEnglishFontSize a) := of_laws _

theorem setChineseFontSize (a : Word16) : Statement (.setChineseFontSize a) := of_laws _

theorem drawPoint (a b : Word16) : Statement (.drawPoint a b) := of_laws _

theorem drawLine (a b c d : Word16) : Statement (.drawLine a b c d) := of_laws _

theorem fillRectangle (a b c d : Word16) : Statement (.fillRectangle a b c d) := of_laws _

theorem drawRectangle (a b c d : Word16) : Statement (.drawRectangle a b c d) := of_laws _

theorem drawCircle (a b c : Word16) : Statement (.drawCircle a b c) := of_laws _

theorem fillCircle (a b c : Word16) : Statement (.fillCircle a b c) := of_laws _

theorem drawTriangle (a b c d e f : Word16) : Statement (.drawTriangle a b c d e f) := of_laws _

theorem fillTriangle (a b c d e f : Word16) : Statement (.fillTriangle a b c d e f) := of_laws _

theorem clearScreen : Statement .clearScreen := of_laws _

theorem displayText (a b : Word16) (str : List Byte) : Statement (.displayText a b str) := of_laws _

theorem displayImage (a b : Word16) (str : List Byte) : Statement (.displayImage a b str) := of_laws _

end Sys2Proof.Laws.FrameShape
end

