-- ==== Sys2Proof/Laws/Phases.lean ====
section
/-! SUPPORT. The phases of a transaction, one a step, against the transaction as one function. -/

namespace Sys2Proof.Machine

/-- From `s` the block reaches `t` in `m` phases, none of them idle. -/
def Reach (m : Nat) (s t : State) : Prop := ∀ k, runToIdle (m + k) s = runToIdle k t

/-- Phases add up. -/
theorem Reach.trans {a b : Nat} {s t u : State} (h : Reach a s t) (h' : Reach b t u) : Reach (a + b) s u := by
  intro k
  rw [Nat.add_assoc, h, h']

/-- One phase without a fault. -/
theorem Reach.step {s : State} (h : s.ph ≠ .idle) (hg : phaseGuard s = none) : Reach 1 s (phase s) := by
  intro k
  rw [Nat.add_comm]
  simp [runToIdle, h, phaseStep, hg]

/-- The end of a transaction reads neither PH nor, for a Handshake, S. -/
theorem endTransaction_congr {out : TxOut} {a b : State} (h1 : a.latch = b.latch) (h2 : a.seq = b.seq)
    (h3 : a.codec = b.codec) (h4 : a.reply = b.reply) (h5 : a.result = b.result) (h6 : a.env = b.env)
    (h7 : a.txOpcode = 0x00 ∨ a.session = b.session) : a.endTransaction out = b.endTransaction out := by
  obtain ⟨la, pa, sa, ca, ra, ea, na, va⟩ := a
  obtain ⟨lb, pb, sb, cb, rb, eb, nb, vb⟩ := b
  simp only at h1 h2 h3 h4 h5 h6
  subst h1 h2 h3 h4 h5 h6
  rcases h7 with h7 | h7
  · have h8 : (if sa then (0x00 : Byte) else la.op) = 0x00 := h7
    unfold State.endTransaction State.settleSession State.recordOutcome State.keepsFirst State.txOpcode
    dsimp only
    rw [if_pos h8, if_pos h8]
  · simp only at h7; subst h7; rfl

/-- From PH_DISCARD the block reaches, in at most six phases, the end of the transaction as `transaction` gives it (R131 to R138,
R149); SetBaudRate's own frame, which goes on to PH_RECONF, is the one exception. -/
theorem reach_transaction {s : State} {o : Byte} {p : List Byte} {sh : Shape} {n : Nat}
    (hph : s.ph = .discard) (ho : s.txOpcode = o) (hp : s.txPayload = some p) (hs : s.txShape = some sh)
    (hn : s.txCount = n) (hn9 : n ≤ 9) (hg : (s.seq || s.latch.operandsWritten) = true)
    (hb : ¬ (s.seq = false ∧ s.latch.op = 0x01)) (hrb : s.reply.rb.wf = true) :
    ∃ m, m ≤ 6 ∧ Reach m s ((transaction o p sh n s).1.endTransaction (transaction o p sh n s).2) := by
  subst ho
  have r1 : Reach 1 s (phDiscard s) := by
    have := Reach.step (s := s) (by simp [hph]) (by simp [phaseGuard, hph])
    simpa [phase, hph] using this
  have r2 : Reach 1 (phDiscard s) (phEncode (phDiscard s)) := by
    have := Reach.step (s := phDiscard s) (by simp [phDiscard]) (by
      have h2 : (phDiscard s).ph = .encode := rfl
      have h3 : ((phDiscard s).seq || (phDiscard s).latch.operandsWritten) = true := hg
      simp only [phaseGuard, h2, h3, if_true])
    simpa [phase, phDiscard] using this
  have hp' : (phDiscard s).txPayload = some p := hp
  have ho' : (phDiscard s).txOpcode = s.txOpcode := rfl
  have r12 := r1.trans r2
  cases hc : frameEncode s.txOpcode p s.codec with
  | none =>
    refine ⟨2, by omega, ?_⟩
    have : phEncode (phDiscard s) = (transaction s.txOpcode p sh n s).1.endTransaction (transaction s.txOpcode p sh n s).2 := by
      rw [transaction_of_tooLong sh n hc]
      unfold phEncode
      rw [hp', ho']
      have : frameEncode s.txOpcode p (phDiscard s).codec = none := hc
      simp only [this]
      unfold State.raiseError encodingFailure
      apply endTransaction_congr <;> try rfl
      by_cases h0 : s.txOpcode = 0x00
      · exact .inl h0
      · right
        simp only [closeTransaction_fst, State.settleSession_session, h0, if_false, phDiscard]
    rw [← this]; exact r12
  | some c =>
    have e2 : phEncode (phDiscard s) = { s.beginTransaction s.txOpcode with codec := c, ph := .write } := by
      unfold phEncode
      rw [hp', ho']
      have : frameEncode s.txOpcode p (phDiscard s).codec = some c := hc
      simp only [this]
      rfl
    rw [e2] at r12
    rw [transaction_of_encoded sh n hc]
    set q := State.sendFrame { s.beginTransaction s.txOpcode with codec := c } with hq
    set w : State := { s.beginTransaction s.txOpcode with codec := c, ph := .write } with hw
    have hsw : w.txShape = some sh := hs
    have hfl : c.flen.toNat ≤ 1033 := by
      have h := hc
      rw [frameEncode_eq] at h
      split at h
      · cases h
      · cases h; simp only [BitVec.toNat_ofNat]; omega
    have r3 : Reach 1 w (phWrite w) := by
      have := Reach.step (s := w) (by simp [hw]) (by
        have : w.codec.flen.toNat ≤ 1033 := hfl
        have h2 : w.ph = .write := rfl
        simp [phaseGuard, h2, hsw, this])
      simpa [phase, hw] using this
    have hsend : w.sendFrame = (q.1, { q.2 with ph := .write }) := rfl
    have hto : s.txOpcode = w.txOpcode := rfl
    have r123 := r12.trans r3
    unfold afterWrite
    unfold phWrite at r123
    rw [hsend] at r123
    simp only at r123
    cases hq1 : q.1 with
    | ioerr =>
      simp only [hq1] at r123 ⊢
      refine ⟨3, by omega, ?_⟩
      convert r123 using 1
      unfold State.raiseError
      apply endTransaction_congr <;> try rfl
      by_cases h0 : s.txOpcode = 0x00
      · exact .inl h0
      · right
        simp only [closeTransaction_fst, State.settleSession_session, h0, if_false]
    | ok =>
      simp only [hq1] at r123 ⊢
      rw [if_neg (by exact hb)] at r123
      have hrd : w.txReads = sh.reads := by simp [State.txReads, hsw]
      rw [hrd] at r123
      by_cases hr : sh.reads = true
      · rw [if_pos hr] at r123 ⊢
        set w4 : State := { q.2 with ph := .settle } with hw4
        have g4 : w4.txReads = sh.reads := hrd
        have r4 : Reach 1 w4 (phSettle w4) := by
          have := Reach.step (s := w4) (by simp [hw4]) (by
            have h2 : w4.ph = .settle := rfl
            simp [phaseGuard, h2, g4, hr])
          simpa [phase, hw4] using this
        set w5 : State := phSettle w4 with hw5
        have g5 : w5.txReads = sh.reads := hrd
        have n5 : w5.txCount = n := hn
        have r5 : Reach 1 w5 (phRead w5) := by
          have := Reach.step (s := w5) (by rw [hw5]; simp [phSettle]) (by
            have h2 : w5.ph = .read := rfl
            simp [phaseGuard, h2, g5, hr, n5, hn9])
          have h2 : w5.ph = .read := rfl
          simpa [phase, h2] using this
        have r := (r123.trans r4).trans r5
        unfold phRead at r
        rw [n5] at r
        have hto5 : w5.txOpcode = s.txOpcode := rfl
        rw [hto5] at r
        have hv : State.readReply s.txOpcode n w5 = (((q.2.settle s.txOpcode).readReply s.txOpcode n).1,
            { ((q.2.settle s.txOpcode).readReply s.txOpcode n).2 with ph := .read }) := by
          unfold State.readReply
          have : (w5).env.readExact n s.txOpcode = (q.2.settle s.txOpcode).env.readExact n s.txOpcode := rfl
          rw [this]
          dsimp only
          split <;> rfl
        rw [hv] at r
        unfold afterRead
        cases hrr : ((q.2.settle s.txOpcode).readReply s.txOpcode n).1 with
        | none =>
          simp only [hrr] at r ⊢
          refine ⟨5, by omega, ?_⟩
          convert r using 1
          unfold State.raiseError
          have hse : ((q.2.settle s.txOpcode).readReply s.txOpcode n).2.seq = s.seq := by simp; rfl
          have hla : ((q.2.settle s.txOpcode).readReply s.txOpcode n).2.latch = s.latch := by simp; rfl
          apply endTransaction_congr <;> try rfl
          by_cases h0 : s.txOpcode = 0x00
          · left
            show (if ((q.2.settle s.txOpcode).readReply s.txOpcode n).2.seq then (0x00 : Byte) else ((q.2.settle s.txOpcode).readReply s.txOpcode n).2.latch.op) = 0x00
            rw [hse, hla]; exact h0
          · right
            simp only [closeTransaction_fst, State.settleSession_session, h0, if_false]
        | some bs =>
          simp only [hrr] at r ⊢
          have hse : ((q.2.settle s.txOpcode).readReply s.txOpcode n).2.seq = s.seq := by simp; rfl
          have hla : ((q.2.settle s.txOpcode).readReply s.txOpcode n).2.latch = s.latch := by simp; rfl
          set v := ((q.2.settle s.txOpcode).readReply s.txOpcode n).2 with hvd
          set w6 : State := { v with ph := .decode } with hw6
          have hbl : bs.length ≤ n := by
            unfold State.readReply at hrr
            dsimp only at hrr
            split at hrr
            · cases hrr
            · rename_i heq; cases hrr; exact Env.readExact_length heq
          have hrep : v.reply = { rb := s.reply.rb.writeBytes 0 bs, rexp := BitVec.ofNat 4 n, rcnt := BitVec.ofNat 4 bs.length } := by
            rw [hvd]
            unfold State.readReply at hrr ⊢
            dsimp only at hrr ⊢
            split at hrr
            · cases hrr
            · rename_i heq; cases hrr
              have : (q.2.settle s.txOpcode).reply = s.reply := rfl
              rw [this]
          have hby : v.reply.bytes = bs := by
            rw [hrep]
            unfold Reply.bytes
            have : (BitVec.ofNat 4 bs.length).toNat = bs.length := by simp only [BitVec.toNat_ofNat]; omega
            simp only [this]
            exact Memory.readBytes_writeBytes hrb 0 bs
          have hsh6 : w6.txShape = some sh := by
            simp only [State.txShape, hw6, hse, hla]; exact hs
          have r6 : Reach 1 w6 (phDecode w6) := by
            have := Reach.step (s := w6) (by simp [hw6]) (by
              have h2 : w6.ph = .decode := rfl
              have h3 : w6.reply.rcnt.toNat ≤ 9 := by
                have : w6.reply = v.reply := rfl
                rw [this, hrep]; simp only [BitVec.toNat_ofNat]; omega
              simp [phaseGuard, h2, State.txReads, hsh6, hr, h3])
            have h2 : w6.ph = .decode := rfl
            simpa [phase, h2] using this
          refine ⟨6, by omega, ?_⟩
          have r' := r.trans r6
          convert r' using 1
          unfold phDecode
          rw [hsh6]
          have : w6.reply.bytes = bs := hby
          rw [this]
          simp only [Option.getD_some]
          apply endTransaction_congr <;> try rfl
          by_cases h0 : s.txOpcode = 0x00
          · left
            show (if ((q.2.settle s.txOpcode).readReply s.txOpcode n).2.seq then (0x00 : Byte) else ((q.2.settle s.txOpcode).readReply s.txOpcode n).2.latch.op) = 0x00
            rw [hse, hla]; exact h0
          · right
            simp only [closeTransaction_fst, State.settleSession_session, h0, if_false]; rfl
      · rw [if_neg hr] at r123 ⊢
        refine ⟨3, by omega, ?_⟩
        convert r123 using 1
        apply endTransaction_congr <;> try rfl
        by_cases h0 : s.txOpcode = 0x00
        · exact .inl h0
        · right
          simp only [closeTransaction_fst, State.settleSession_session, h0, if_false]

end Sys2Proof.Machine
end

