-- ==== Sys2Proof/Tests/Slice0.lean ====
section
/-! SUPPORT. The model's own tests. Expected values are the spec's: the example frames of rules R170 to R216, the vectors of
95_test_vectors (parts 1, 2.6, 2.7, 3), named at each test. Then the witnesses: for each statement with hypotheses, a state
and operands that meet them all. -/

namespace Sys2Proof.Tests

open Sys2Proof.Machine

/-! ## Well-formedness: an ill-formed term for each check of R108 -/

theorem test_ill_formed_area : Instr.wellFormed (.setStorageArea 2) = false := by decide

theorem test_ill_formed_direction : Instr.wellFormed (.setDisplayDirection 2) = false := by decide

theorem test_ill_formed_color : Instr.wellFormed (.setDrawingColor 4 0) = false := by decide

theorem test_ill_formed_background : Instr.wellFormed (.setDrawingColor 0 0x0103) = false := by decide

theorem test_ill_formed_english_size : Instr.wellFormed (.setEnglishFontSize 0) = false := by decide

theorem test_ill_formed_chinese_size : Instr.wellFormed (.setChineseFontSize 32) = false := by decide

theorem test_ill_formed_read_size_zero : Instr.wellFormed (.getBaudRate 0) = false := by decide

theorem test_ill_formed_read_size_ten : Instr.wellFormed (.getBaudRate 10) = false := by decide

theorem test_ill_formed_nul : Instr.wellFormed (.displayText 0 0 [0x41, 0x00, 0x42]) = false := by decide

theorem test_ill_formed_image_nul : Instr.wellFormed (.displayImage 0 0 [0x00]) = false := by decide

theorem test_ill_formed_long :
    Instr.textFits (.displayText 0 0 (List.replicate 1020 0x41)) = false := by
  simp only [Instr.textFits, Instr.text, List.length_replicate]; decide

theorem test_well_formed_longest :
    Instr.textFits (.displayImage 0 0 (List.replicate 1019 0x41)) = true := by
  simp only [Instr.textFits, Instr.text, List.length_replicate]; decide

theorem test_well_formed :
    ([.setStorageArea 1, .setDisplayDirection 1, .setDrawingColor 3 3, .setEnglishFontSize 1, .setChineseFontSize 3,
      .getBaudRate 1, .getBaudRate 9, .displayText 0 0 [],
      .displayImage 65535 0 [0xFF]] : List Instr).all Instr.wellFormed = true := by decide

/-! ## Decoding: the frame of each command as the spec writes it (rules R170 to R216) -/

theorem test_decode_handshake :
    frameDecode
    [0xA5, 0x00, 0x09, 0x00, 0xCC, 0x33, 0xC3, 0x3C, 0xAC] =
    .ok .handshake := by decide

theorem test_decode_setBaudRate :
    frameDecode
    [0xA5, 0x00, 0x0D, 0x01, 0x00, 0x01, 0xC2, 0x00, 0xCC, 0x33, 0xC3, 0x3C, 0x6A] =
    .ok (.setBaudRate 115200) := by decide

theorem test_decode_getBaudRate :
    frameDecode
    [0xA5, 0x00, 0x09, 0x02, 0xCC, 0x33, 0xC3, 0x3C, 0xAE] =
    .ok (.getBaudRate 9) := by decide

theorem test_decode_getStorageArea :
    frameDecode
    [0xA5, 0x00, 0x09, 0x06, 0xCC, 0x33, 0xC3, 0x3C, 0xAA] =
    .ok .getStorageArea := by decide

theorem test_decode_setStorageArea :
    frameDecode
    [0xA5, 0x00, 0x0A, 0x07, 0x01, 0xCC, 0x33, 0xC3, 0x3C, 0xA9] =
    .ok (.setStorageArea 1) := by decide

theorem test_decode_enterSleep :
    frameDecode
    [0xA5, 0x00, 0x09, 0x08, 0xCC, 0x33, 0xC3, 0x3C, 0xA4] =
    .ok .enterSleep := by decide

theorem test_decode_refresh :
    frameDecode
    [0xA5, 0x00, 0x09, 0x0A, 0xCC, 0x33, 0xC3, 0x3C, 0xA6] =
    .ok .refresh := by decide

theorem test_decode_getDisplayDirection :
    frameDecode
    [0xA5, 0x00, 0x09, 0x0C, 0xCC, 0x33, 0xC3, 0x3C, 0xA0] =
    .ok .getDisplayDirection := by decide

theorem test_decode_setDisplayDirection :
    frameDecode
    [0xA5, 0x00, 0x0A, 0x0D, 0x01, 0xCC, 0x33, 0xC3, 0x3C, 0xA3] =
    .ok (.setDisplayDirection 1) := by decide

theorem test_decode_importFontLibrary :
    frameDecode
    [0xA5, 0x00, 0x09, 0x0E, 0xCC, 0x33, 0xC3, 0x3C, 0xA2] =
    .ok .importFontLibrary := by decide

theorem test_decode_importImage :
    frameDecode
    [0xA5, 0x00, 0x09, 0x0F, 0xCC, 0x33, 0xC3, 0x3C, 0xA3] =
    .ok .importImage := by decide

theorem test_decode_setDrawingColor :
    frameDecode
    [0xA5, 0x00, 0x0B, 0x10, 0x03, 0x00, 0xCC, 0x33, 0xC3, 0x3C, 0xBD] =
    .ok (.setDrawingColor 3 0) := by decide

theorem test_decode_getDrawingColor :
    frameDecode
    [0xA5, 0x00, 0x09, 0x11, 0xCC, 0x33, 0xC3, 0x3C, 0xBD] =
    .ok .getDrawingColor := by decide

theorem test_decode_getEnglishFontSize :
    frameDecode
    [0xA5, 0x00, 0x09, 0x1C, 0xCC, 0x33, 0xC3, 0x3C, 0xB0] =
    .ok .getEnglishFontSize := by decide

theorem test_decode_getChineseFontSize :
    frameDecode
    [0xA5, 0x00, 0x09, 0x1D, 0xCC, 0x33, 0xC3, 0x3C, 0xB1] =
    .ok .getChineseFontSize := by decide

theorem test_decode_setEnglishFontSize :
    frameDecode
    [0xA5, 0x00, 0x0A, 0x1E, 0x03, 0xCC, 0x33, 0xC3, 0x3C, 0xB2] =
    .ok (.setEnglishFontSize 3) := by decide

theorem test_decode_setChineseFontSize :
    frameDecode
    [0xA5, 0x00, 0x0A, 0x1F, 0x02, 0xCC, 0x33, 0xC3, 0x3C, 0xB2] =
    .ok (.setChineseFontSize 2) := by decide

theorem test_decode_drawPoint :
    frameDecode
    [0xA5, 0x00, 0x0D, 0x20, 0x03, 0x1F, 0x02, 0x57, 0xCC, 0x33, 0xC3, 0x3C, 0xC1] =
    .ok (.drawPoint 799 599) := by decide

theorem test_decode_drawLine :
    frameDecode
    [0xA5, 0x00, 0x11, 0x22, 0x00, 0x0A, 0x00, 0x14, 0x01, 0x2C, 0x01, 0x90, 0xCC, 0x33, 0xC3, 0x3C,
      0x34] =
    .ok (.drawLine 10 20 300 400) := by decide

theorem test_decode_fillRectangle :
    frameDecode
    [0xA5, 0x00, 0x11, 0x24, 0x00, 0x0A, 0x00, 0x0A, 0x00, 0x64, 0x00, 0x64, 0xCC, 0x33, 0xC3, 0x3C,
      0x90] =
    .ok (.fillRectangle 10 10 100 100) := by decide

theorem test_decode_drawRectangle :
    frameDecode
    [0xA5, 0x00, 0x11, 0x25, 0x01, 0x00, 0x00, 0x01, 0x00, 0x02, 0x02, 0x01, 0xCC, 0x33, 0xC3, 0x3C,
      0x90] =
    .ok (.drawRectangle 256 1 2 513) := by decide

theorem test_decode_drawCircle :
    frameDecode
    [0xA5, 0x00, 0x0F, 0x26, 0x01, 0x90, 0x01, 0x2C, 0x00, 0x32, 0xCC, 0x33, 0xC3, 0x3C, 0x02] =
    .ok (.drawCircle 400 300 50) := by decide

theorem test_decode_fillCircle :
    frameDecode
    [0xA5, 0x00, 0x0F, 0x27, 0x01, 0x90, 0x01, 0x2C, 0x00, 0x00, 0xCC, 0x33, 0xC3, 0x3C, 0x31] =
    .ok (.fillCircle 400 300 0) := by decide

theorem test_decode_drawTriangle :
    frameDecode
    [0xA5, 0x00, 0x15, 0x28, 0x00, 0x0A, 0x00, 0x0A, 0x00, 0x64, 0x00, 0x0A, 0x00, 0x37, 0x00, 0x5A,
      0xCC, 0x33, 0xC3, 0x3C, 0x9B] =
    .ok (.drawTriangle 10 10 100 10 55 90) := by decide

theorem test_decode_fillTriangle :
    frameDecode
    [0xA5, 0x00, 0x15, 0x29, 0x00, 0x00, 0x00, 0x00, 0xFF, 0xFF, 0x00, 0x00, 0x00, 0x00, 0xFF, 0xFF,
      0xCC, 0x33, 0xC3, 0x3C, 0x99] =
    .ok (.fillTriangle 0 0 65535 0 0 65535) := by decide

theorem test_decode_clearScreen :
    frameDecode
    [0xA5, 0x00, 0x09, 0x2E, 0xCC, 0x33, 0xC3, 0x3C, 0x82] =
    .ok .clearScreen := by decide

theorem test_decode_displayText :
    frameDecode
    [0xA5, 0x00, 0x10, 0x30, 0x00, 0x0A, 0x00, 0x14, 0x48, 0x69, 0x00, 0xCC, 0x33, 0xC3, 0x3C, 0xBA] =
    .ok (.displayText 10 20 [0x48, 0x69]) := by decide

theorem test_decode_displayImage :
    frameDecode
    [0xA5, 0x00, 0x16, 0x70, 0x00, 0x00, 0x00, 0x00, 0x50, 0x49, 0x43, 0x37, 0x2E, 0x42, 0x4D, 0x50,
      0x00, 0xCC, 0x33, 0xC3, 0x3C, 0xDF] =
    .ok (.displayImage 0 0 [0x50, 0x49, 0x43, 0x37, 0x2E, 0x42, 0x4D, 0x50]) := by decide

/-! ## Decoding: the invalid sequences of 95_test_vectors 2.7, by the first failing check of R110 -/

theorem test_decode_too_short :
    frameDecode
    [0xA5, 0x00, 0x09, 0x00, 0xCC, 0x33, 0xC3, 0x3C] =
    .error .tooShort := by decide

theorem test_decode_bad_header :
    frameDecode
    [0xA4, 0x00, 0x09, 0x00, 0xCC, 0x33, 0xC3, 0x3C, 0xAC] =
    .error .badHeader := by decide

theorem test_decode_bad_length :
    frameDecode
    [0xA5, 0x00, 0x0A, 0x00, 0xCC, 0x33, 0xC3, 0x3C, 0xAF] =
    .error .badLength := by decide

theorem test_decode_bad_trailer :
    frameDecode
    [0xA5, 0x00, 0x09, 0x00, 0xCC, 0x33, 0xC3, 0x3D, 0xAD] =
    .error .badTrailer := by decide

theorem test_decode_bad_checksum :
    frameDecode
    [0xA5, 0x00, 0x09, 0x00, 0xCC, 0x33, 0xC3, 0x3C, 0xAD] =
    .error .badChecksum := by decide

theorem test_decode_unknown_opcode :
    frameDecode
    [0xA5, 0x00, 0x09, 0x21, 0xCC, 0x33, 0xC3, 0x3C, 0x8D] =
    .error .unknownOpcode := by decide

theorem test_decode_bad_payload_length :
    frameDecode
    [0xA5, 0x00, 0x0C, 0x20, 0x00, 0x00, 0x00, 0xCC, 0x33, 0xC3, 0x3C, 0x89] =
    .error .badPayloadLength := by decide

theorem test_decode_payload_of_p0 :
    frameDecode
    [0xA5, 0x00, 0x0A, 0x00, 0x00, 0xCC, 0x33, 0xC3, 0x3C, 0xAF] =
    .error .badPayloadLength := by decide

theorem test_decode_payload_of_ps :
    frameDecode
    [0xA5, 0x00, 0x0D, 0x30, 0x00, 0x00, 0x00, 0x00, 0xCC, 0x33, 0xC3, 0x3C, 0x98] =
    .error .badPayloadLength := by decide

theorem test_decode_no_nul :
    frameDecode
    [0xA5, 0x00, 0x0E, 0x30, 0x00, 0x00, 0x00, 0x00, 0x41, 0xCC, 0x33, 0xC3, 0x3C, 0xDA] =
    .error .badString := by decide

theorem test_decode_nul_inside :
    frameDecode
    [0xA5, 0x00, 0x11, 0x30, 0x00, 0x00, 0x00, 0x00, 0x41, 0x00, 0x42, 0x00, 0xCC, 0x33, 0xC3, 0x3C,
      0x87] =
    .error .badString := by decide

theorem test_decode_bad_size :
    frameDecode
    [0xA5, 0x00, 0x0A, 0x1E, 0x00, 0xCC, 0x33, 0xC3, 0x3C, 0xB1] =
    .error .badOperand := by decide

theorem test_decode_bad_color :
    frameDecode
    [0xA5, 0x00, 0x0B, 0x10, 0x04, 0x00, 0xCC, 0x33, 0xC3, 0x3C, 0xBA] =
    .error .badOperand := by decide

/-- R115 with R110: 0xA5000A1E completed with a zero operand is the vector Invalid(BadOperand) of 95_test_vectors 2.7. -/
theorem test_table_word :
    decodeTableWord 32 0xA5001122 = some (.drawLine 0 0 0 0) ∧
    decodeTableWord 32 0xA5000030 = some (.displayText 0 0 []) ∧ decodeTableWord 32 0xA5000921 = none ∧
    decodeTableWord 32 0xA5000A1E = none ∧ decodeTableWord 64 0x01000000A5000A1E = some (.setEnglishFontSize 1) := by decide

/-! ## Single steps with scripted answers -/

/-- The state after reset in which the host issues `i` next and the Transport will give these answers; two stale bytes are
buffered, as at the start of program P1. -/
def start (i : Instr) (ws : List WriteAnswer) (rs : List ReadAnswer) : State :=
  { State.reset with
    env :=
      { State.reset.env with moves := [.issue i], inbound := [0x58, 0x59], writeAnswers := ws, readAnswers := rs } }

/-- The state after one step from `start`. -/
def after (i : Instr) (ws : List WriteAnswer) (rs : List ReadAnswer) : Option State :=
  match step (start i ws rs) with
  | .next t => some t
  | .fault _ | .refused _ => none

/-- A reply "OK". -/
def okay : ReadAnswer := .arrived [0x4F, 0x4B] 2

/-- P1, command 1: the stale bytes are dropped. -/
theorem test_handshake_ok :
    (after .handshake [.ok] [okay]).map (fun t => (t.result, t.session, t.framesSent, t.env.inbound)) =
      some
        ((Result.succeeded .acknowledged 0x4F 0x4B 0 0 true 0), .ready,
        [[0xA5, 0x00, 0x09, 0x00, 0xCC, 0x33, 0xC3, 0x3C, 0xAC]], []) := by decide

/-- R170, example: one byte only. -/
theorem test_handshake_short :
    (after .handshake [.ok] [.arrived [0x4F] 1]).map (fun t => (t.result, t.session)) =
      some
        ((Result.failed .timeoutShortRead false .timeout 0x4F 0), .idle) := by decide

/-- P3, command 1. -/
theorem test_setBaudRate_retry :
    (after (.setBaudRate 115200) [.ok, .ok] [.arrived [] 0]).map (fun t => (t.result, t.session, t.framesSent)) =
      some
        ((Result.failed .timeoutShortRead true .timeout 0 0), .idle,
        [[0xA5, 0x00, 0x0D, 0x01, 0x00, 0x01, 0xC2, 0x00, 0xCC, 0x33, 0xC3, 0x3C, 0x6A],
          [0xA5, 0x00, 0x09, 0x00, 0xCC, 0x33, 0xC3, 0x3C, 0xAC]]) := by decide

/-- R171, example. -/
theorem test_setBaudRate_ok :
    (after (.setBaudRate 115200) [.ok, .ok] [okay]).map (fun t => (t.result, t.session)) =
      some
        ((Result.succeeded .acknowledged 0x4F 0x4B 0 0 true 0), .ready) := by decide

/-- S4; P3, command 3. -/
theorem test_getBaudRate :
    (after (.getBaudRate 6) [.ok] [.arrived [0x31, 0x31, 0x35, 0x32, 0x30, 0x30] 6]).map (State.result) =
      some
        (Result.succeeded .numericAscii 0x31 0x31 0 0 true 115200) := by decide

/-- P3, command 4: the rest stays in the Transport. -/
theorem test_getBaudRate_part :
    (after (.getBaudRate 3) [.ok] [.arrived [0x31, 0x31, 0x35, 0x32, 0x30, 0x30] 6]).map (fun t => (t.result, t.env.inbound)) =
      some
        ((Result.succeeded .numericAscii 0x31 0x31 0 0 true 115), [0x32, 0x30, 0x30]) := by decide

/-- P4, command 6: the quirk; 0x4B stays behind. -/
theorem test_getStorageArea :
    (after .getStorageArea [.ok] [okay]).map (fun t => (t.result, t.env.inbound)) =
      some
        ((Result.succeeded .singleByteValue 0x4F 0 0 0 false 0), [0x4B]) := by decide

/-- R174, example. -/
theorem test_setStorageArea :
    (after (.setStorageArea 1) [.ok] [okay]).map (fun t => (t.result, t.framesSent)) =
      some
        ((Result.succeeded .acknowledged 0x4F 0x4B 0 0 true 0),
        [[0xA5, 0x00, 0x0A, 0x07, 0x01, 0xCC, 0x33, 0xC3, 0x3C, 0xA9]]) := by decide

/-- R175; P3, command 5: no read. -/
theorem test_enterSleep :
    (after .enterSleep [.ok] []).map (fun t => (t.result, t.framesSent)) =
      some
        ((Result.succeeded .none 0 0 0 0 true 0),
        [[0xA5, 0x00, 0x09, 0x08, 0xCC, 0x33, 0xC3, 0x3C, 0xA4]]) := by decide

/-- P4, command 4. -/
theorem test_refresh_write_error :
    (after .refresh [.ioerr] []).map (fun t => (t.result, t.framesSent)) =
      some
        ((Result.failed .transportError false .none 0 0),
        [[0xA5, 0x00, 0x09, 0x0A, 0xCC, 0x33, 0xC3, 0x3C, 0xA6]]) := by decide

/-- R176, example. -/
theorem test_refresh_other_reply :
    (after .refresh [.ok] [.arrived [0x45, 0x52] 2]).map (State.result) =
      some
        (Result.failed .unexpectedReply false .textStatus 0x45 0x52) := by decide

/-- R177, example. -/
theorem test_getDisplayDirection :
    (after .getDisplayDirection [.ok] [.arrived [0x02] 1]).map (State.result) =
      some
        (Result.succeeded .singleByteValue 0x02 0 0 0 false 0) := by decide

/-- P4, command 7. -/
theorem test_getDisplayDirection_read_error :
    (after .getDisplayDirection [.ok] [.ioerr []]).map (State.result) =
      some
        (Result.failed .transportError false .none 0 0) := by decide

/-- R178, example. -/
theorem test_setDisplayDirection :
    (after (.setDisplayDirection 1) [.ok] [okay]).map (fun t => (t.result, t.framesSent)) =
      some
        ((Result.succeeded .acknowledged 0x4F 0x4B 0 0 true 0),
        [[0xA5, 0x00, 0x0A, 0x0D, 0x01, 0xCC, 0x33, 0xC3, 0x3C, 0xA3]]) := by decide

/-- R179, example. -/
theorem test_importFontLibrary :
    (after .importFontLibrary [.ok] [okay]).map (State.result) =
      some
        (Result.succeeded .acknowledged 0x4F 0x4B 0 0 true 0) := by decide

/-- R180, example. -/
theorem test_importImage :
    (after .importImage [.ok] [.arrived [] 0]).map (State.result) =
      some
        (Result.failed .timeoutShortRead false .timeout 0 0) := by decide

/-- S1; P1, command 2. -/
theorem test_setDrawingColor :
    (after (.setDrawingColor 3 0) [.ok] [okay]).map (fun t => (t.result, t.framesSent)) =
      some
        ((Result.succeeded .acknowledged 0x4F 0x4B 0 0 true 0),
        [[0xA5, 0x00, 0x0B, 0x10, 0x03, 0x00, 0xCC, 0x33, 0xC3, 0x3C, 0xBD]]) := by decide

/-- S2; P1, command 3. -/
theorem test_getDrawingColor :
    (after .getDrawingColor [.ok] [.arrived [0x03, 0x00] 2]).map (State.result) =
      some
        (Result.succeeded .colorPair 3 0 3 0 true 0) := by decide

/-- R191, example. -/
theorem test_getDrawingColor_unknown :
    (after .getDrawingColor [.ok] [.arrived [0x07, 0x01] 2]).map (State.result) =
      some
        (Result.succeeded .colorPair 7 1 0 1 false 0) := by decide

/-- R192, example. -/
theorem test_getEnglishFontSize :
    (after .getEnglishFontSize [.ok] [.arrived [0x00] 1]).map (State.result) =
      some
        (Result.succeeded .singleByteValue 0 0 1 0 false 0) := by decide

/-- R193, example. -/
theorem test_getChineseFontSize :
    (after .getChineseFontSize [.ok] [.arrived [0x02] 1]).map (State.result) =
      some
        (Result.succeeded .singleByteValue 2 0 2 0 true 0) := by decide

/-- P4, command 2: nothing is written. -/
theorem test_setEnglishFontSize_zero :
    (after (.setEnglishFontSize 0) [.ok] [okay]).map (fun t => (t.result, t.framesSent)) =
      some
        ((Result.failed .encodingError false .none 0 0),
        []) := by decide

/-- R195, example. -/
theorem test_setChineseFontSize :
    (after (.setChineseFontSize 2) [.ok] [okay]).map (fun t => (t.result, t.framesSent)) =
      some
        ((Result.succeeded .acknowledged 0x4F 0x4B 0 0 true 0),
        [[0xA5, 0x00, 0x0A, 0x1F, 0x02, 0xCC, 0x33, 0xC3, 0x3C, 0xB2]]) := by decide

/-- The example of its rule (43_drawing). -/
theorem test_drawPoint :
    (after (.drawPoint 799 599) [.ok] [okay]).map (fun t => (t.result, t.framesSent)) =
      some
        ((Result.succeeded .acknowledged 0x4F 0x4B 0 0 true 0),
        [[0xA5, 0x00, 0x0D, 0x20, 0x03, 0x1F, 0x02, 0x57, 0xCC, 0x33, 0xC3, 0x3C, 0xC1]]) := by decide

/-- The example of its rule (43_drawing). -/
theorem test_drawLine :
    (after (.drawLine 10 20 300 400) [.ok] [okay]).map (fun t => (t.result, t.framesSent)) =
      some
        ((Result.succeeded .acknowledged 0x4F 0x4B 0 0 true 0),
        [[0xA5, 0x00, 0x11, 0x22, 0x00, 0x0A, 0x00, 0x14, 0x01, 0x2C, 0x01, 0x90, 0xCC, 0x33, 0xC3, 0x3C,
      0x34]]) := by decide

/-- The example of its rule (43_drawing). -/
theorem test_fillRectangle :
    (after (.fillRectangle 10 10 100 100) [.ok] [okay]).map (fun t => (t.result, t.framesSent)) =
      some
        ((Result.succeeded .acknowledged 0x4F 0x4B 0 0 true 0),
        [[0xA5, 0x00, 0x11, 0x24, 0x00, 0x0A, 0x00, 0x0A, 0x00, 0x64, 0x00, 0x64, 0xCC, 0x33, 0xC3, 0x3C,
      0x90]]) := by decide

/-- The example of its rule (43_drawing). -/
theorem test_drawRectangle :
    (after (.drawRectangle 256 1 2 513) [.ok] [okay]).map (fun t => (t.result, t.framesSent)) =
      some
        ((Result.succeeded .acknowledged 0x4F 0x4B 0 0 true 0),
        [[0xA5, 0x00, 0x11, 0x25, 0x01, 0x00, 0x00, 0x01, 0x00, 0x02, 0x02, 0x01, 0xCC, 0x33, 0xC3, 0x3C,
      0x90]]) := by decide

/-- The example of its rule (43_drawing). -/
theorem test_drawCircle :
    (after (.drawCircle 400 300 50) [.ok] [okay]).map (fun t => (t.result, t.framesSent)) =
      some
        ((Result.succeeded .acknowledged 0x4F 0x4B 0 0 true 0),
        [[0xA5, 0x00, 0x0F, 0x26, 0x01, 0x90, 0x01, 0x2C, 0x00, 0x32, 0xCC, 0x33, 0xC3, 0x3C, 0x02]]) := by decide

/-- The example of its rule (43_drawing). -/
theorem test_fillCircle :
    (after (.fillCircle 400 300 0) [.ok] [okay]).map (fun t => (t.result, t.framesSent)) =
      some
        ((Result.succeeded .acknowledged 0x4F 0x4B 0 0 true 0),
        [[0xA5, 0x00, 0x0F, 0x27, 0x01, 0x90, 0x01, 0x2C, 0x00, 0x00, 0xCC, 0x33, 0xC3, 0x3C, 0x31]]) := by decide

/-- The example of its rule (43_drawing). -/
theorem test_drawTriangle :
    (after (.drawTriangle 10 10 100 10 55 90) [.ok] [okay]).map (fun t => (t.result, t.framesSent)) =
      some
        ((Result.succeeded .acknowledged 0x4F 0x4B 0 0 true 0),
        [[0xA5, 0x00, 0x15, 0x28, 0x00, 0x0A, 0x00, 0x0A, 0x00, 0x64, 0x00, 0x0A, 0x00, 0x37, 0x00, 0x5A,
      0xCC, 0x33, 0xC3, 0x3C, 0x9B]]) := by decide

/-- The example of its rule (43_drawing). -/
theorem test_fillTriangle :
    (after (.fillTriangle 0 0 65535 0 0 65535) [.ok] [okay]).map (fun t => (t.result, t.framesSent)) =
      some
        ((Result.succeeded .acknowledged 0x4F 0x4B 0 0 true 0),
        [[0xA5, 0x00, 0x15, 0x29, 0x00, 0x00, 0x00, 0x00, 0xFF, 0xFF, 0x00, 0x00, 0x00, 0x00, 0xFF, 0xFF,
      0xCC, 0x33, 0xC3, 0x3C, 0x99]]) := by decide

/-- R208, example; S3, second row. -/
theorem test_clearScreen_second_fails :
    (after .clearScreen [.ok, .ok] [okay, .arrived [] 0]).map (fun t => (t.result, t.session, t.framesSent)) =
      some
        ((Result.failed .timeoutShortRead true .timeout 0 0), .idle,
        [[0xA5, 0x00, 0x09, 0x2E, 0xCC, 0x33, 0xC3, 0x3C, 0x82],
          [0xA5, 0x00, 0x09, 0x00, 0xCC, 0x33, 0xC3, 0x3C, 0xAC]]) := by decide

/-- R208, example; S3, third row. -/
theorem test_clearScreen_first_fails :
    (after .clearScreen [.ok, .ok] [.arrived [0x4E, 0x4F] 2, okay]).map (fun t => (t.result, t.session)) =
      some
        ((Result.failed .unexpectedReply false .textStatus 0x4E 0x4F), .ready) := by decide

/-- R215, example. -/
theorem test_displayText :
    (after (.displayText 10 20 [0x48, 0x69]) [.ok] [okay]).map (fun t => (t.result, t.framesSent)) =
      some
        ((Result.succeeded .acknowledged 0x4F 0x4B 0 0 true 0),
        [[0xA5, 0x00, 0x10, 0x30, 0x00, 0x0A, 0x00, 0x14, 0x48, 0x69, 0x00, 0xCC, 0x33, 0xC3, 0x3C, 0xBA]]) := by decide

/-- 95_test_vectors 2.5, embedded NUL. -/
theorem test_displayText_nul :
    (after (.displayText 0 0 [0x41, 0x00, 0x42]) [.ok] [okay]).map (fun t => (t.result, t.framesSent)) =
      some
        ((Result.failed .encodingError false .none 0 0),
        []) := by decide

/-- P4, command 5. -/
theorem test_displayImage :
    (after (.displayImage 5 6 [0x41, 0x2E, 0x42, 0x4D, 0x50]) [.ok] [.arrived [0x45, 0x72] 2]).map (fun t => (t.result, t.framesSent)) =
      some
        ((Result.failed .unexpectedReply false .textStatus 0x45 0x72),
        [[0xA5, 0x00, 0x13, 0x70, 0x00, 0x05, 0x00, 0x06, 0x41, 0x2E, 0x42, 0x4D, 0x50, 0x00, 0xCC, 0x33,
      0xC3, 0x3C, 0xF5]]) := by decide

/-! ## More single steps: faults, the register view, reset, and the parser's corners -/

/-- A state in PH_ENCODE with this opcode and these written registers. -/
def encoding (op : Byte) (w : Written) : State :=
  { State.reset with ph := .encode, latch := { State.reset.latch with op := op, written := w } }

/-- Every operand register written. -/
def allWritten : Written :=
  { x0 := true, x1 := true, x2 := true, x3 := true, x4 := true, x5 := true, rate := true, slen := true, str := 1019,
    nread := true }

/-- R25: DrawPoint without its second coordinate. -/
theorem test_unwritten_operand : step (encoding 0x20 { allWritten with x1 := false }) = .fault .operandNotWritten := rfl

/-- R106; 95_test_vectors 2.8: an unknown opcode ends in EncodingError after the discard, nothing written. -/
theorem test_unknown_opcode :
    (match runToIdle 20 (State.reset.issue { op := 0x21 }) with
      | .next t => some (t.ph, t.result, t.env.trace)
      | .fault _ | .refused _ => none) =
      some (.idle, Result.failed .encodingError false .none 0 0, [.discard]) := by decide

/-- R271: a reset in the middle of a command; what was written stays written, and the inbound bytes stay buffered. -/
theorem test_reset_in_command :
    (match step { encoding 0x20 allWritten with
        env := { State.reset.env with moves := [.reset], inbound := [0x4B], trace := [.discard] } } with
      | .next t => some (t.ph, t.latch.op, t.env.inbound, t.env.trace)
      | .fault _ | .refused _ => none) = some (.idle, 0, [0x4B], [.discard]) := by decide

/-- R247, R244: a read falls short although two bytes are buffered, and they stay buffered. -/
theorem test_read_falls_short :
    (({ State.reset.env with inbound := [0x4F, 0x4B], readAnswers := [.arrived [0x4F] 1] } : Env).readExact 2 0x0A).1 =
        some [0x4F] ∧
      (({ State.reset.env with inbound := [0x4F, 0x4B], readAnswers := [.arrived [] 0] } : Env).readExact 2 0x0A).1 =
        some [] ∧
      (({ State.reset.env with inbound := [0x4F, 0x4B], readAnswers := [.arrived [] 0] } : Env).readExact
        2 0x0A).2.inbound = [0x4F, 0x4B] := by decide

/-- 95_test_vectors 2.6: "0009600", "96 00", "+9600", "999999999". -/
theorem test_numeric_ascii :
    ([[0x30, 0x30, 0x30, 0x39, 0x36, 0x30, 0x30], [0x39, 0x36, 0x20, 0x30, 0x30], [0x2B, 0x39, 0x36, 0x30, 0x30],
        [0x39, 0x39, 0x39, 0x39, 0x39, 0x39, 0x39, 0x39, 0x39]] : List (List Byte)).map
      (fun bs => match decodeNumericAscii bs with
        | .ok p => some p.num.toNat
        | .fail _ _ => none) = [some 9600, some 96, none, some 999999999] := by decide

/-! ## Witnesses: the hypotheses of each statement can be met -/

/-- A state that is ready for an exchange, with two bytes of an earlier frame in FB. -/
def scripted (x : Exchange) : State :=
  { State.reset with
    codec := { State.reset.codec with fb := [(0, 0xA5), (40, 0x7F)] }
    env := { State.reset.env with inbound := [0x58], writeAnswers := x.writes, readAnswers := x.reads } }

/-- The exchange in which "OK" arrives. -/
def okReply : Exchange := .reply [0x4F, 0x4B]

/-- `scripted x` is ready for `x`. -/
theorem scripted_ready (x : Exchange) : (scripted x).readyFor x :=
  ⟨rfl, rfl, ⟨[], (List.append_nil _).symm⟩, ⟨[], (List.append_nil _).symm⟩⟩

theorem witness_StepKeepsInv : ∃ s t, State.Inv s = true ∧ step s = .next t :=
  ⟨start .refresh [.ok] [okay], _, by decide, rfl⟩

theorem witness_StepKeepsFrames : ∃ s t, State.Inv s = true ∧ s.framesOk = true ∧ step s = .next t :=
  ⟨start .clearScreen [.ok, .ok] [okay, okay], _, by decide, by decide, rfl⟩

theorem witness_SoundStepFaults :
    State.Inv (encoding 0x30 Written.nothing) = true ∧
      step (encoding 0x30 Written.nothing) = .fault .operandNotWritten := ⟨by decide, rfl⟩

theorem witness_ResetLeavesTransport : ∃ (s : State) (ms : List HostMove), s.env.moves = .reset :: ms ∧ s.ph = .encode :=
  ⟨{ encoding 0 allWritten with env := { State.reset.env with moves := [.reset, .wait] } }, [.wait], rfl, rfl⟩

theorem witness_StepRunsIssuedCommand :
    (start (.drawPoint 1 2) [] []).ph = .idle ∧ (start (.drawPoint 1 2) [] []).env.moves = .issue (.drawPoint 1 2) :: [] :=
  ⟨rfl, rfl⟩

theorem witness_StepRunsDecodedWord : decodeTableWord 32 0xA5000900 = some .handshake := by decide

theorem witness_BusyPortHoldsIssue :
    ∃ (s u : State) (i : Instr) (c : RawIssue), s.ph ≠ .idle ∧ u.ph ≠ .idle ∧ s.env.moves = .issue i :: [] ∧
      u.env.moves = .issueRaw c :: [] ∧ (∃ t, step s = .next t) ∧ ∃ t, step u = .next t :=
  ⟨{ start .refresh [] [] with ph := .discard },
    { State.reset with ph := .done, env := { State.reset.env with moves := [.issueRaw { op := 0x0A }] } },
    .refresh, { op := 0x0A }, by decide, by decide, rfl, rfl, ⟨_, rfl⟩, ⟨_, rfl⟩⟩

theorem witness_BusyExecStops : (encoding 0 allWritten).ph ≠ .idle := by decide

theorem witness_IssueLatchesOperands_noString :
    (RawIssue.str { op := 0x20, x0 := some 1 }) = none ∧ (RawIssue.x0 { op := 0x20, x0 := some 1 }).isSome = true :=
  ⟨rfl, rfl⟩

theorem witness_IssueLatchesOperands :
    ∃ (s : State) (c : RawIssue) (str : List Byte), s.ph = .idle ∧ s.env.moves = .issueRaw c :: [] ∧
      s.latch.str.wf = true ∧ c.str = some str ∧ str.length = 1019 :=
  ⟨{ State.reset with
      env := { State.reset.env with moves := [.issueRaw { op := 0x30, str := some (List.replicate 1019 0x41) }] } },
    { op := 0x30, str := some (List.replicate 1019 0x41) }, List.replicate 1019 0x41, rfl, rfl, rfl, rfl,
    List.length_replicate⟩

theorem witness_ReadsAreFree :
    ({ State.reset.env with readAnswers := [.arrived [0x4B] 1 2] } : Env).readAnswers = .arrived [0x4B] 1 2 :: [] ∧
      ([0x4F, 0x4B] : List Byte).length ≤ 2 := ⟨rfl, by decide⟩

theorem witness_ArrivalRaisesNothing :
    ({ encoding 0 allWritten with env := { State.reset.env with moves := [.arrive [0x4F], .wait] } } : State).env.moves =
      .arrive [0x4F] :: [.wait] := rfl

/-- A DisplayText in PH_ENCODE with two characters, of which `n` are written, and these coordinates written. -/
def encodingText (n : Nat) (x0 x1 : Bool) : State :=
  { encoding 0x30 { allWritten with str := n, x0 := x0, x1 := x1 } with
    latch :=
      { State.reset.latch with
        op := 0x30, slen := 2, str := [(0, 0x48), (1, 0x69)]
        written := { allWritten with str := n, x0 := x0, x1 := x1 } } }

/-- The two clauses about a string: a character, or a coordinate, is not written. -/
theorem witness_UnwrittenOperandStops_text :
    (encodingText 1 true true).ph = .encode ∧ (encodingText 1 true true).seq = false ∧
      (encodingText 1 true true).latch.written.str < (encodingText 1 true true).latch.slen.toNat ∧
      (encodingText 2 true false).latch.slen.toNat ≤ 1019 ∧ 0x00 ∉ (encodingText 2 true false).latch.text ∧
      ((encodingText 2 true false).latch.written.x0 && (encodingText 2 true false).latch.written.x1) = false := by
  decide

/-- R25: the second coordinate of a DisplayText, and its second character. -/
theorem test_unwritten_text :
    phaseStep (encodingText 2 true false) = .fault .operandNotWritten ∧
      phaseStep (encodingText 1 true true) = .fault .operandNotWritten := ⟨rfl, rfl⟩

/-- One state for each clause, with one register of the format unwritten. -/
theorem witness_UnwrittenOperandStops :
    (Opcode.ofByte 0x07 = some .setStorageArea ∧ Opcode.format .setStorageArea = .pe1 .storageArea) ∧
    (Opcode.ofByte 0x10 = some .setDrawingColor ∧ Opcode.format .setDrawingColor = .pe2 .color .color) ∧
    (Opcode.ofByte 0x01 = some .setBaudRate ∧ Opcode.format .setBaudRate = .pr) ∧
    (Opcode.ofByte 0x20 = some .drawPoint ∧ Opcode.format .drawPoint = .pc2) ∧
    (Opcode.ofByte 0x26 = some .drawCircle ∧ Opcode.format .drawCircle = .pc3) ∧
    (Opcode.ofByte 0x22 = some .drawLine ∧ Opcode.format .drawLine = .pc4) ∧
    (Opcode.ofByte 0x28 = some .drawTriangle ∧ Opcode.format .drawTriangle = .pc6) ∧
    (Opcode.ofByte 0x30 = some .displayText ∧ Opcode.format .displayText = .ps) ∧
    Opcode.ofByte 0x02 = some .getBaudRate ∧
    ([0x07, 0x10, 0x01, 0x20, 0x26, 0x22, 0x28, 0x30, 0x02] : List Byte).all
      (fun b => (encoding b Written.nothing).ph == .encode && (encoding b Written.nothing).seq == false) = true := by
  decide

/-- Each phase has a state whose phase step answers a next state. -/
theorem witness_PhaseWalk :
    ∀ p : Phase, ∃ s t, State.ph s = p ∧ phaseStep s = .next t := by
  intro p
  cases p
  case reconf =>
    exact ⟨{ encoding 0x01 allWritten with ph := .reconf }, _, rfl, rfl⟩
  all_goals exact ⟨{ encoding 0x0A allWritten with ph := _ }, _, rfl, rfl⟩

theorem witness_PhasesRunTheCommand :
    State.reset.ph = .idle ∧ State.reset.latch.str.wf = true ∧ State.reset.reply.rb.wf = true := ⟨rfl, rfl, rfl⟩

theorem witness_DecodeOfEncode :
    ([.setStorageArea 1, .setDisplayDirection 0, .setDrawingColor 3 0, .setEnglishFontSize 1, .setChineseFontSize 3,
      .getBaudRate 9, .displayText 65535 0 [0xFF], .setBaudRate 0xFFFFFFFF] : List Instr).all Instr.wellFormed = true := by
  decide

theorem witness_EncodeOfDecode :
    frameDecode [0xA5, 0x00, 0x0B, 0x10, 0x03, 0x00, 0xCC, 0x33, 0xC3, 0x3C, 0xBD] = .ok (.setDrawingColor 3 0) := by
  decide

theorem witness_FrameLayout : ∃ p : List Byte, 9 + p.length = 1033 := ⟨List.replicate 1024 0x41, by rw [List.length_replicate]⟩

theorem witness_ChecksumIdentity :
    frameBytes 0x00 [] = [0xA5, 0x00, 0x09, 0x00] ++ [] ++ [0xCC, 0x33, 0xC3, 0x3C] ++ [0xAC] := by decide

theorem witness_EncoderInPlace :
    State.reset.codec.fb.wf = true ∧ (∃ p : List Byte, 1033 < 9 + p.length) ∧ ∃ p : List Byte, 9 + p.length ≤ 1033 :=
  ⟨rfl, ⟨List.replicate 1025 0, by rw [List.length_replicate]; decide⟩,
    ⟨List.replicate 1024 0, by rw [List.length_replicate]⟩⟩

theorem witness_BufferByteOrder : Memory.wf [(0, 0xA5), (1032, 0x01)] = true := by decide

theorem witness_IllFormedCommandFails :
    State.reset.ph = .idle ∧ Instr.wellFormed (.setDrawingColor 3 4) = false ∧ Instr.wellFormed (.getBaudRate 10) = false :=
  by decide

theorem witness_UnknownOpcodeFails : State.reset.ph = .idle ∧ Opcode.ofByte (RawIssue.op { op := 0x71 }) = none := by
  decide

theorem witness_HandshakeRuns :
    (scripted okReply).readyFor okReply ∧ okReply ≠ .noRead ∧ (scripted (.readError [0x4F])).readyFor (.readError [0x4F]) :=
  ⟨scripted_ready _, by decide, scripted_ready _⟩

theorem witness_SetBaudRateRuns :
    (scripted .writeError).readyFor .writeError ∧
      ∃ s : State, s.ph = .idle ∧ s.codec.fb.wf = true ∧ (∃ ws, s.env.writeAnswers = .ok :: okReply.writes ++ ws) ∧
        ∃ rs, s.env.readAnswers = okReply.reads ++ rs :=
  ⟨scripted_ready _, start .refresh [.ok, .ok] [okay], rfl, rfl, ⟨[], rfl⟩, ⟨[], rfl⟩⟩

theorem witness_GetBaudRateRuns :
    (scripted okReply).readyFor okReply ∧ okReply ≠ .noRead ∧ 1 ≤ (1#4).toNat ∧ (9#4).toNat ≤ 9 ∧ (0#4).toNat = 0 ∧
      9 < (10#4).toNat ∧ State.reset.ph = .idle :=
  ⟨scripted_ready _, by decide, by decide, by decide, by decide, by decide, rfl⟩

theorem witness_ByteQueriesRun : (scripted (.reply [])).readyFor (.reply []) ∧ Exchange.reply [] ≠ .noRead :=
  ⟨scripted_ready _, by decide⟩

theorem witness_GetDrawingColorRuns :
    (scripted (.reply [0x03, 0x00])).readyFor (.reply [0x03, 0x00]) ∧ Exchange.reply [0x03, 0x00] ≠ .noRead :=
  ⟨scripted_ready _, by decide⟩

theorem witness_EnterSleepRuns :
    (scripted .noRead).readyFor .noRead ∧ (scripted .writeError).readyFor .writeError :=
  ⟨scripted_ready _, scripted_ready _⟩

theorem witness_ActionsRun : (scripted okReply).readyFor okReply ∧ okReply ≠ .noRead := ⟨scripted_ready _, by decide⟩

theorem witness_TwoCodeSettersRun :
    (scripted okReply).readyFor okReply ∧ ((1 : Word16) = 0 ∨ (1 : Word16) = 1) ∧ (2 : Word16) ≠ 0 ∧ (2 : Word16) ≠ 1 ∧
      (scripted okReply).ph = .idle := ⟨scripted_ready _, by decide, by decide, by decide, rfl⟩

theorem witness_SetDrawingColorRuns :
    (scripted okReply).readyFor okReply ∧ (3 : Word16) ≤ 3 ∧ (0 : Word16) ≤ 3 ∧ (3 : Word16) < 4 ∧ (3 : Word16) < 0x0103 ∧
      (scripted okReply).ph = .idle :=
  ⟨scripted_ready _, by decide, by decide, by decide, by decide, rfl⟩

theorem witness_FontSizeSettersRun :
    (scripted okReply).readyFor okReply ∧ (1 : Word16) ≤ 1 ∧ (1 : Word16) ≤ 3 ∧ (3 : Word16) ≤ 3 ∧ (3 : Word16) < 4 ∧
      (scripted okReply).ph = .idle :=
  ⟨scripted_ready _, by decide, by decide, by decide, by decide, rfl⟩

theorem witness_DrawingCommandsRun : (scripted (.readError [])).readyFor (.readError []) ∧ Exchange.readError [] ≠ .noRead :=
  ⟨scripted_ready _, by decide⟩

theorem witness_ClearScreenRuns :
    ∃ (s : State) (x y : Exchange), s.ph = .idle ∧ s.codec.fb.wf = true ∧ x ≠ .noRead ∧ y ≠ .noRead ∧
      (∃ ws, s.env.writeAnswers = x.writes ++ y.writes ++ ws) ∧ ∃ rs, s.env.readAnswers = x.reads ++ y.reads ++ rs :=
  ⟨start .clearScreen [.ioerr, .ok] [okay], .writeError, okReply, rfl, rfl, by decide, by decide, ⟨[], rfl⟩, ⟨[], rfl⟩⟩

theorem witness_StringCommandsRun :
    (scripted okReply).readyFor okReply ∧ (∃ str : List Byte, str.length = 1019 ∧ 0x00 ∉ str) ∧
      (∃ str : List Byte, str.length = 1020) ∧ (0x00 : Byte) ∈ ([0x41, 0x00] : List Byte) ∧ (scripted okReply).ph = .idle :=
  ⟨scripted_ready _, ⟨List.replicate 1019 0x41, List.length_replicate,
      fun h => absurd (List.eq_of_mem_replicate h) (by decide)⟩,
    ⟨List.replicate 1020 0x41, List.length_replicate⟩, by decide, rfl⟩

theorem witness_EveryCommandEnds : State.reset.ph = .idle := rfl

theorem witness_LatchFrame :
    (∃ t, exec (.drawTriangle 1 2 3 4 5 6) State.reset = .next t) ∧ (∃ t, exec (.setBaudRate 9600) State.reset = .next t) ∧
      (∃ t, exec (.getBaudRate 9) State.reset = .next t) ∧ State.reset.latch.str.wf = true ∧
      Opcode.format (Instr.opcode (.displayText 0 0 [0x41])) = .ps := ⟨⟨_, rfl⟩, ⟨_, rfl⟩, ⟨_, rfl⟩, rfl, rfl⟩

theorem witness_BufferFrame :
    (scripted okReply).codec.fb.wf = true ∧ (scripted okReply).reply.rb.wf = true ∧
      (scripted okReply).latch.str.wf = true ∧ (∃ t, exec .refresh (scripted okReply) = .next t) ∧
      Instr.wellFormed (.setEnglishFontSize 0) = false ∧ ∃ t, exec (.setEnglishFontSize 0) (scripted okReply) = .next t :=
  ⟨rfl, rfl, rfl, ⟨_, rfl⟩, by decide, ⟨_, rfl⟩⟩

theorem witness_SessionFrame :
    (∃ t, exec .refresh (scripted okReply) = .next t) ∧ Instr.refresh ≠ .handshake ∧ Instr.refresh ≠ .clearScreen ∧
      Instr.opcode .refresh ≠ .setBaudRate := ⟨⟨_, rfl⟩, by decide, by decide, by decide⟩

theorem witness_SessionGatesNothing : ∃ t, exec .clearScreen (scripted okReply) = .next t := ⟨_, rfl⟩

theorem witness_BuffersAreFresh :
    (scripted okReply).codec.fb.wf = true ∧ Memory.wf [(7, 0x11)] = true ∧
      ∃ t, exec .getDrawingColor (scripted okReply) = .next t := ⟨rfl, by decide, ⟨_, rfl⟩⟩

theorem witness_LatchIsDiscarded : ∃ t, exec (.drawCircle 1 2 3) (scripted okReply) = .next t := ⟨_, rfl⟩

theorem witness_CallsAreOnlyAdded : ∃ t, step (start .refresh [.ok] [okay]) = .next t := ⟨_, rfl⟩

theorem witness_ResultSequence :
    (match exec .clearScreen (start .clearScreen [.ok, .ioerr] [okay]) with
      | .next t => t.result.seq
      | .fault _ | .refused _ => false) = true := by decide

theorem witness_MovesInOrder : ∃ t, step (start .enterSleep [.ok] []) = .next t := ⟨_, rfl⟩

theorem witness_NumericDecoder :
    (([0x39, 0x36, 0x30, 0x30] : List Byte) ≠ [] ∧ ∀ d ∈ ([0x39, 0x36, 0x30, 0x30] : List Byte), 0x30 ≤ d ∧ d ≤ 0x39) ∧
      (∀ r, ([0x3A] : List Byte).head? = some r → r < 0x30 ∨ 0x39 < r) ∧
      ∀ r, ([] : List Byte).head? = some r → r < 0x30 ∨ 0x39 < r := by decide

end Sys2Proof.Tests
end

section
/-! PROOFS. The scope of the model: the byte order of the multi-byte buffer writes (R13, R60, R65) and what a read of the
Transport may hand over (R74, R147, R247). -/

namespace Sys2Proof.Machine

/-! ## Multi-byte buffer writes -/

/-- Bytes written at rising addresses change no byte outside their range (R65). -/
theorem Memory.read_writeBytes_outside {m : Memory} (hm : m.wf = true) {a c : Nat} (bs : List Byte)
    (h : c < a ∨ a + bs.length ≤ c) : (m.writeBytes a bs).read c = m.read c := by
  cases h with
  | inl before => exact Memory.read_writeBytes_before hm bs before
  | inr after => exact Memory.read_writeBytes_after hm bs after

/-- The bytes of a 16-bit write, the high one first (R13). -/
theorem Memory.read_write16 {m : Memory} (hm : m.wf = true) (a : Nat) (v : Word16) :
    (m.write16 a v).read a = v.extractLsb' 8 8 ∧ (m.write16 a v).read (a + 1) = v.extractLsb' 0 8 := by
  have hbytes : (m.write16 a v).readBytes a 2 = be16 v := Memory.readBytes_writeBytes hm a (be16 v)
  simpa [Memory.readBytes, be16] using hbytes

/-- The bytes of a 32-bit write, the highest first (R13). -/
theorem Memory.read_write32 {m : Memory} (hm : m.wf = true) (a : Nat) (w : Word32) :
    (m.write32 a w).read a = w.extractLsb' 24 8 ∧ (m.write32 a w).read (a + 1) = w.extractLsb' 16 8 ∧
      (m.write32 a w).read (a + 2) = w.extractLsb' 8 8 ∧ (m.write32 a w).read (a + 3) = w.extractLsb' 0 8 := by
  have hbytes : (m.write32 a w).readBytes a 4 = be32 w := Memory.readBytes_writeBytes hm a (be32 w)
  simpa [Memory.readBytes, be32, Nat.add_assoc] using hbytes

/-- A 16-bit read at the address of a 16-bit write gives the value written (R60). -/
theorem Memory.read16_write16 {m : Memory} (hm : m.wf = true) (a : Nat) (v : Word16) : (m.write16 a v).read16 a = v := by
  obtain ⟨high, low⟩ := Memory.read_write16 hm a v
  rw [Memory.read16, high, low, unbe16_be16]

/-- A 32-bit read at the address of a 32-bit write gives the value written (R60). -/
theorem Memory.read32_write32 {m : Memory} (hm : m.wf = true) (a : Nat) (w : Word32) : (m.write32 a w).read32 a = w := by
  obtain ⟨b0, b1, b2, b3⟩ := Memory.read_write32 hm a w
  rw [Memory.read32, b0, b1, b2, b3, unbe32_be32]

/-- Settles O22: both writes are `writeBytes` of the big-endian bytes, so the bytes are read back in that order, the values
through the round trip of `be16` and `be32`, and the frame and the canonical form are those of `writeBytes`. -/
theorem bufferByteOrder : Obligations.BufferByteOrder := by
  intro m a v w hm
  obtain ⟨high, low⟩ := Memory.read_write16 hm a v
  obtain ⟨highest, -, -, lowest⟩ := Memory.read_write32 hm a w
  exact ⟨high, low, Memory.read16_write16 hm a v, fun _ hc => Memory.read_writeBytes_outside hm (be16 v) hc,
    highest, lowest, Memory.read32_write32 hm a w, fun _ hc => Memory.read_writeBytes_outside hm (be32 w) hc,
    Memory.wf_writeBytes hm a (be16 v), Memory.wf_writeBytes hm a (be32 w)⟩

/-! ## What a read of the Transport may hand over -/

/-- A read in which bytes arrive hands over the front of the stream and keeps the rest buffered (R74, R147). -/
theorem Env.readExact_splits_stream {e : Env} {bs : List Byte} {k lost : Nat} {rs : List ReadAnswer}
    (h : e.readAnswers = .arrived bs k lost :: rs) (n : Nat) (o : Byte) :
    ∃ got, (e.readExact n o).1 = some got ∧ got.length ≤ n ∧
      got.length = min (min k n) ((e.inbound.drop lost).length + bs.length) ∧
      got ++ (e.readExact n o).2.inbound = e.inbound.drop lost ++ bs ∧ (e.readExact n o).2.readAnswers = rs := by
  have hread := Env.readExact_of_arrived h n o
  have hgot : (e.readExact n o).1 = some ((e.inbound.drop lost ++ bs).take (min k n)) := by rw [hread]
  refine ⟨_, hgot, Env.readExact_length hgot, ?_, ?_, ?_⟩
  · rw [List.length_take, List.length_append]
  · rw [hread]
    exact List.take_append_drop ..
  · rw [hread]

/-- Any bytes, at most as many as asked for, are what some read hands over: all that is buffered is lost and they arrive
(R244, R247; the loss is log entry 17). -/
theorem Env.readExact_gives_any (e : Env) {n : Nat} (o : Byte) {got : List Byte} (h : got.length ≤ n) :
    (({ e with readAnswers := [.arrived got got.length e.inbound.length] } : Env).readExact n o).1 = some got := by
  rw [Env.readExact_of_arrived rfl]
  simp [Nat.min_eq_left h]

/-- A read in which nothing arrives and nothing is lost takes the first `k` buffered bytes and holds the others back
(R74, R247). -/
theorem Env.readExact_of_nothing_arrived (e : Env) {n k : Nat} (o : Byte) (h : k ≤ n) :
    (({ e with readAnswers := [.arrived [] k] } : Env).readExact n o).1 = some (e.inbound.take k) ∧
      (({ e with readAnswers := [.arrived [] k] } : Env).readExact n o).2.inbound = e.inbound.drop k := by
  rw [Env.readExact_of_arrived rfl]
  simp [Nat.min_eq_left h]

/-- Settles O53: every scripted answer splits the stream; an answer that loses the whole buffer hands over any bytes, and one
in which nothing arrives hands over any prefix of it. -/
theorem readsAreFree : Obligations.ReadsAreFree :=
  ⟨fun _ n _ _ o _ _ h => Env.readExact_splits_stream h n o,
    fun e _ o _ hgot =>
      ⟨⟨_, Env.readExact_gives_any e o hgot⟩,
        fun _ hk => ⟨_, Env.readExact_of_nothing_arrived e o (le_trans hk (min_le_left _ _))⟩⟩⟩

end Sys2Proof.Machine
end

section
/-! PROOFS. The commands in one form: each runs its own transaction, or fails its checks, and two of them go on to a Handshake
(R148, R149). What a transaction does to the codec and to the reply side. -/

namespace Sys2Proof.Machine

/-! ## The meaning of a command in one form -/

/-- The number of bytes the read of a command's own transaction asks for (R140). -/
def readCount : Instr → Nat
  | .getBaudRate nread => nread.toNat
  | i => i.opcode.shape.count 0

/-- A command's own transaction, or its failure after the discard where a check of R108 fails. -/
def ownTransaction (i : Instr) (s : State) : State × TxOut :=
  if i.wellFormed then transaction i.opcode.byte i.payload i.opcode.shape (readCount i) s
  else encodingFailure i.opcode.byte s

/-- What follows a command's own transaction: its outcome is recorded, or a composite command goes on to its Handshake
(R148). -/
def completion (i : Instr) (p : State × TxOut) : State :=
  match i with
  | .setBaudRate rate => if p.2.isOk then reconfigureAndVerify rate p.1 else conclude p
  | .clearScreen => foldHandshake p.2 p.1
  | _ => conclude p

/-- A check by cases is a check by conjunction. -/
theorem ite_not_else_ite_not {α : Type} (a b : Bool) (x y : α) :
    (if !a then y else if !b then y else x) = if a && b then x else y := by
  cases a <;> cases b <;> rfl

/-- Every command is its own transaction with its completion, run from the issue (R130, R149). -/
theorem exec_eq_runCommand (i : Instr) (s : State) :
    exec i s = runCommand (rawOf i) (fun u => completion i (ownTransaction i u)) s := by
  cases i with
  | setStorageArea _ | setDisplayDirection _ | setDrawingColor _ _ | setEnglishFontSize _ | setChineseFontSize _
  | getBaudRate _ =>
    simp only [ownTransaction, Instr.wellFormed, Instr.operandsInDomain, Instr.readSizeOk, Instr.textFits,
      Instr.textClean, Instr.text, stringClean, List.all_nil, Bool.and_true, Bool.true_and,
      show stringFits ([] : List Byte).length = true from rfl]
    rfl
  | displayText _ _ _ =>
    simp only [exec, execDisplayText, ite_not_else_ite_not]
    rfl
  | displayImage _ _ _ =>
    simp only [exec, execDisplayImage, ite_not_else_ite_not]
    rfl
  | _ => rfl

/-- A command that answers a next state was issued at PH_IDLE, and the state is its completion, finished. -/
theorem exec_next {i : Instr} {s t : State} (h : exec i s = .next t) :
    s.ph = .idle ∧ t = State.finish (completion i (ownTransaction i (s.issue (rawOf i)))) := by
  rw [exec_eq_runCommand] at h
  unfold runCommand at h
  split at h
  · exact ⟨‹_›, (Host.Outcome.next.inj h).symm⟩
  · cases h

/-- A command issued at PH_IDLE answers a next state. -/
theorem exec_of_idle (i : Instr) {s : State} (h : s.ph = .idle) :
    exec i s = .next (State.finish (completion i (ownTransaction i (s.issue (rawOf i))))) :=
  (exec_eq_runCommand i s).trans (runCommand_of_idle h)

/-- The three ways a command goes on after its own transaction: a SetBaudRate whose frame was written, a ClearScreen, or
nothing but the recording of the outcome. -/
theorem completion_cases (i : Instr) (p : State × TxOut) :
    (∃ rate, i = .setBaudRate rate ∧ completion i p = reconfigureAndVerify rate p.1) ∨
      (i = .clearScreen ∧ completion i p = foldHandshake p.2 p.1) ∨
      (i ≠ .clearScreen ∧ completion i p = conclude p) := by
  cases i with
  | setBaudRate rate =>
    by_cases hok : p.2.isOk = true
    · exact .inl ⟨rate, rfl, if_pos hok⟩
    · exact .inr (.inr ⟨nofun, if_neg hok⟩)
  | clearScreen => exact .inr (.inl ⟨rfl, rfl⟩)
  | _ => exact .inr (.inr ⟨nofun, rfl⟩)

/-! ## Which commands are what -/

/-- Only a Handshake has the opcode byte of a Handshake. -/
theorem opcode_byte_ne_zero {i : Instr} (h : i ≠ .handshake) : i.opcode.byte ≠ 0x00 := by
  cases i with
  | handshake => exact absurd rfl h
  | _ => exact of_decide_eq_true rfl

/-- A legal read size is at most nine (R24). -/
theorem readSizeLegal_le {nread : BitVec 4} (h : readSizeLegal nread = true) : nread.toNat ≤ 9 := by
  obtain ⟨-, hle⟩ := Bool.and_eq_true_iff.mp h
  exact of_decide_eq_true hle

/-- A GetBaudRate is well formed exactly if its read size is legal (R24, R108). -/
theorem wellFormed_getBaudRate (nread : BitVec 4) : (Instr.getBaudRate nread).wellFormed = readSizeLegal nread :=
  (Bool.and_true _).trans (Bool.and_true _)

/-- A command that passes its checks asks for at most nine bytes (R24, R140). -/
theorem readCount_le (i : Instr) (h : i.wellFormed = true) : readCount i ≤ 9 := by
  cases i with
  | getBaudRate nread => exact readSizeLegal_le ((wellFormed_getBaudRate nread).symm.trans h)
  | _ => exact of_decide_eq_true rfl

/-! ## The codec after a transaction -/

/-- What follows a write leaves the codec alone. -/
theorem afterWrite_codec (o : Byte) (shape : Shape) (n : Nat) (q : WriteAnswer × State) :
    (afterWrite o shape n q).1.codec = q.2.codec := by
  unfold afterWrite
  split
  · rfl
  · split
    · unfold afterRead
      split <;> simp
    · rfl

/-- The codec after a transaction: as it was, or with a frame that fits put into it. -/
inductive Codec.Updated (o : Byte) (p : List Byte) (c : Codec) : Codec → Prop where
  | untouched : Codec.Updated o p c c
  | sent (h : 9 + p.length ≤ 1033) (draws : Nat) : Codec.Updated o p c (c.sent o p draws)

/-- A transaction leaves the codec alone where its frame is too long, and else puts the frame into it. -/
theorem transaction_codec (o : Byte) (p : List Byte) (shape : Shape) (n : Nat) (s : State) :
    s.codec.Updated o p (transaction o p shape n s).1.codec := by
  cases h : frameEncode o p s.codec with
  | none =>
    rw [transaction_of_tooLong shape n h]
    exact .untouched
  | some c =>
    rw [transaction_of_encoded shape n h, afterWrite_codec, State.sendFrame_codec]
    rw [frameEncode_eq] at h
    split at h
    · cases h
    · obtain rfl := Option.some.inj h
      exact .sent (by omega) _

/-- A frame put into FB keeps its canonical form and the bytes above its length (R28). -/
theorem Codec.Updated.fb {o : Byte} {p : List Byte} {c c' : Codec} (hu : c.Updated o p c') (h : c.fb.wf = true) :
    c'.fb.wf = true ∧ ∀ a, 9 + p.length ≤ a → c'.fb.read a = c.fb.read a := by
  cases hu with
  | untouched => exact ⟨h, fun _ _ => rfl⟩
  | sent _ draws =>
    refine ⟨Memory.wf_writeBytes h 0 _, fun a ha => Memory.read_writeBytes_after h _ ?_⟩
    rw [frameBytes_length]
    omega

/-! ## The reply side after a transaction -/

/-- A read changes the surroundings and the reply side only: REXP, and RB and RCNT if it answered bytes, no more than it was
asked for (R136). -/
theorem readReply_cases (s : State) (o : Byte) (n : Nat) :
    (∃ e, s.readReply o n = (none, { s with reply := { s.reply with rexp := BitVec.ofNat 4 n }, env := e })) ∨
      ∃ bs e, bs.length ≤ n ∧
        s.readReply o n =
          (some bs,
            { s with
              reply :=
                { rb := s.reply.rb.writeBytes 0 bs, rexp := BitVec.ofNat 4 n, rcnt := BitVec.ofNat 4 bs.length }
              env := e }) := by
  unfold State.readReply
  dsimp only
  split
  · exact .inl ⟨_, rfl⟩
  · exact .inr ⟨_, _, Env.readExact_length ‹_›, rfl⟩

/-- The reply side after a transaction that asks for `n` bytes: as it was, or with REXP written, or with REXP, RB and RCNT
written. -/
inductive Reply.Updated (n : Nat) (r : Reply) : Reply → Prop where
  | untouched : Reply.Updated n r r
  | expecting : Reply.Updated n r { r with rexp := BitVec.ofNat 4 n }
  | received (bs : List Byte) (h : bs.length ≤ n) :
    Reply.Updated n r
      { rb := r.rb.writeBytes 0 bs, rexp := BitVec.ofNat 4 n, rcnt := BitVec.ofNat 4 bs.length }

/-- A read of `n` bytes keeps the canonical form of RB and the bytes above them (R30). -/
theorem Reply.Updated.rb {n : Nat} {r r' : Reply} (hu : r.Updated n r') (h : r.rb.wf = true) :
    r'.rb.wf = true ∧ ∀ a, n ≤ a → r'.rb.read a = r.rb.read a := by
  cases hu with
  | untouched | expecting => exact ⟨h, fun _ _ => rfl⟩
  | received bs hlen =>
    exact ⟨Memory.wf_writeBytes h 0 bs, fun a ha => Memory.read_writeBytes_after h bs (by omega)⟩

/-- What follows a write updates the reply side as a read does, or not at all. -/
theorem afterWrite_reply (o : Byte) (shape : Shape) (n : Nat) (q : WriteAnswer × State) :
    q.2.reply.Updated n (afterWrite o shape n q).1.reply := by
  unfold afterWrite
  split
  · exact .untouched
  · split
    · unfold afterRead
      obtain ⟨_, hread⟩ | ⟨bs, _, hlen, hread⟩ := readReply_cases (q.2.settle o) o n
      · rw [hread]
        exact .expecting
      · rw [hread]
        exact .received bs hlen
    · exact .untouched

/-- A transaction updates the reply side as a read does, or not at all. -/
theorem transaction_reply (o : Byte) (p : List Byte) (shape : Shape) (n : Nat) (s : State) :
    s.reply.Updated n (transaction o p shape n s).1.reply := by
  cases h : frameEncode o p s.codec with
  | none =>
    rw [transaction_of_tooLong shape n h]
    exact .untouched
  | some c =>
    rw [transaction_of_encoded shape n h]
    exact afterWrite_reply o shape n (State.sendFrame { s.beginTransaction o with codec := c })

/-! ## A command's own transaction -/

/-- A failed encode touches neither the latch, PH, SEQ nor the result registers, and takes S to Idle for a Handshake (R138). -/
theorem encodingFailure_frame (o : Byte) (s : State) :
    (encodingFailure o s).1.latch = s.latch ∧ (encodingFailure o s).1.ph = s.ph ∧ (encodingFailure o s).1.seq = s.seq ∧
      (encodingFailure o s).1.result = s.result ∧
      (encodingFailure o s).1.session = (if o = 0x00 then .idle else s.session) := by
  refine ⟨rfl, rfl, rfl, rfl, ?_⟩
  by_cases ho : o = 0x00
  · exact (if_pos ho).trans (if_pos ho).symm
  · exact ((if_neg ho).trans (if_neg ho)).trans (if_neg ho).symm

/-- A command that passes its checks runs its transaction (R108, R149). -/
theorem ownTransaction_of_wellFormed {i : Instr} (h : i.wellFormed = true) (s : State) :
    ownTransaction i s = transaction i.opcode.byte i.payload i.opcode.shape (readCount i) s := if_pos h

/-- A command that fails a check ends after the discard (R108, R231). -/
theorem ownTransaction_of_illFormed {i : Instr} (h : i.wellFormed = false) (s : State) :
    ownTransaction i s = encodingFailure i.opcode.byte s := if_neg (by simp [h])

/-- A command's own transaction touches neither the latch nor SEQ, and only a Handshake moves S, by its outcome (R138). -/
theorem ownTransaction_frame (i : Instr) (s : State) :
    (ownTransaction i s).1.latch = s.latch ∧ (ownTransaction i s).1.seq = s.seq ∧
      (ownTransaction i s).1.session =
        (if i.opcode.byte = 0x00 then (if (ownTransaction i s).2.isOk then .ready else .idle) else s.session) := by
  cases h : i.wellFormed with
  | true =>
    rw [ownTransaction_of_wellFormed h]
    obtain ⟨hlatch, -, hseq, -, hsession⟩ :=
      transaction_frame i.opcode.byte i.payload i.opcode.shape (readCount i) s
    exact ⟨hlatch, hseq, hsession⟩
  | false =>
    rw [ownTransaction_of_illFormed h]
    obtain ⟨hlatch, -, hseq, -, hsession⟩ := encodingFailure_frame i.opcode.byte s
    exact ⟨hlatch, hseq, hsession⟩

/-- A command's own transaction puts the command's frame into the codec, or leaves it alone. -/
theorem ownTransaction_codec (i : Instr) (s : State) :
    s.codec.Updated i.opcode.byte i.payload (ownTransaction i s).1.codec := by
  cases h : i.wellFormed with
  | true =>
    rw [ownTransaction_of_wellFormed h]
    exact transaction_codec _ _ _ _ s
  | false =>
    rw [ownTransaction_of_illFormed h]
    exact .untouched

/-- A command's own transaction updates the reply side as a read of its size does, or, where a check fails, not at all. -/
theorem ownTransaction_reply (i : Instr) (s : State) :
    s.reply.Updated (if i.wellFormed then readCount i else 0) (ownTransaction i s).1.reply := by
  cases h : i.wellFormed with
  | true =>
    rw [ownTransaction_of_wellFormed h]
    exact transaction_reply _ _ _ _ s
  | false =>
    rw [ownTransaction_of_illFormed h]
    exact .untouched

/-! ## What a completion keeps -/

/-- A completion keeps what does not depend on SEQ, the result registers and the surroundings, and, if the command is
composite, is kept by a Handshake transaction. -/
theorem completion_keeps {P : State → Prop} (i : Instr)
    (htx : i = .clearScreen ∨ i.opcode = .setBaudRate → ∀ u, P u → P (transaction 0x00 [] .ack 2 u).1)
    (hfree : ∀ u q r e, P u → P { u with seq := q, result := r, env := e }) {p : State × TxOut} (h : P p.1) :
    P (completion i p) := by
  have hconclude : ∀ {p : State × TxOut}, P p.1 → P (conclude p) := fun h => hfree _ _ _ _ h
  obtain ⟨rate, hi, hc⟩ | ⟨hi, hc⟩ | ⟨-, hc⟩ := completion_cases i p
  · rw [hc]
    exact hconclude (htx (.inr (by rw [hi]; rfl)) _ (hfree _ _ _ _ h))
  · rw [hc]
    unfold foldHandshake
    dsimp only
    split
    · exact hconclude (htx (.inl hi) _ (hfree p.1 true (p.2.record p.1.seq p.1.result) p.1.env h))
    · exact htx (.inl hi) _ (hfree p.1 true (p.2.record p.1.seq p.1.result) p.1.env h)
  · rw [hc]
    exact hconclude h

/-- The Handshake of a composite command, run with SEQ set, records its outcome and moves S by it (R138, R139). -/
theorem conclude_followUp {u : State} (hu : u.seq = true) :
    ∃ r, (conclude (transaction 0x00 [] .ack 2 u)).result = (transaction 0x00 [] .ack 2 u).2.record true r ∧
      (conclude (transaction 0x00 [] .ack 2 u)).session =
        if (transaction 0x00 [] .ack 2 u).2.isOk then .ready else .idle := by
  obtain ⟨-, -, hseq, -, hsession⟩ := transaction_frame 0x00 [] .ack 2 u
  refine ⟨(transaction 0x00 [] .ack 2 u).1.result, ?_, hsession⟩
  rw [conclude, State.recordOutcome_result, hseq, hu]

/-- What a command records: the outcome of its own transaction, or, if it is composite, the outcome of its Handshake with SEQ
set, which then has moved S (R139, R148). -/
theorem completion_result (i : Instr) (p : State × TxOut) :
    (∃ r, (completion i p).result = p.2.record p.1.seq r) ∨
      (i = .clearScreen ∨ i.opcode = .setBaudRate) ∧
        ∃ u r, (completion i p).result = (transaction 0x00 [] .ack 2 u).2.record true r ∧
          (completion i p).session = if (transaction 0x00 [] .ack 2 u).2.isOk then .ready else .idle := by
  obtain ⟨rate, hi, hc⟩ | ⟨hi, hc⟩ | ⟨-, hc⟩ := completion_cases i p
  · rw [hc]
    exact .inr ⟨.inr (by rw [hi]; rfl), _, conclude_followUp rfl⟩
  · rw [hc]
    unfold foldHandshake
    dsimp only
    split
    · exact .inr ⟨.inl hi, _, conclude_followUp rfl⟩
    · obtain ⟨-, -, -, hresult, -⟩ :=
        transaction_frame 0x00 [] .ack 2 { p.1.recordOutcome p.2 with seq := true }
      exact .inl ⟨p.1.result, hresult⟩
  · rw [hc]
    exact .inl ⟨p.1.result, rfl⟩

/-! ## What a command leaves in the latch, in SEQ and in PH -/

/-- A command leaves the block at PH_IDLE (R138). -/
theorem exec_ph {i : Instr} {s t : State} (h : exec i s = .next t) : t.ph = .idle := by
  obtain ⟨-, rfl⟩ := exec_next h
  rfl

/-- The latch after a command is the one its issue wrote (R130). -/
theorem exec_latch {i : Instr} {s t : State} (h : exec i s = .next t) : t.latch = s.latch.accept (rawOf i) := by
  obtain ⟨-, rfl⟩ := exec_next h
  obtain ⟨hlatch, -, -⟩ := ownTransaction_frame i (s.issue (rawOf i))
  refine completion_keeps (P := fun u => u.latch = s.latch.accept (rawOf i)) i ?_ (fun _ _ _ _ h => h) hlatch
  intro _ u hu
  obtain ⟨h, -, -, -, -⟩ := transaction_frame 0x00 [] .ack 2 u
  exact h.trans hu

/-- Only a composite command sets SEQ (R27, R148). -/
theorem exec_seq {i : Instr} {s t : State} (h : exec i s = .next t) (hseq : t.seq = true) :
    i = .clearScreen ∨ i.opcode = .setBaudRate := by
  obtain ⟨-, rfl⟩ := exec_next h
  obtain ⟨rate, hi, -⟩ | ⟨hi, -⟩ | ⟨-, hc⟩ := completion_cases i (ownTransaction i (s.issue (rawOf i)))
  · exact .inr (by rw [hi]; rfl)
  · exact .inl hi
  · obtain ⟨-, hown, -⟩ := ownTransaction_frame i (s.issue (rawOf i))
    rw [State.finish_seq, hc] at hseq
    cases hown.symm.trans hseq

/-- The opcode register of a command's issue holds the command's opcode byte (R104, R130). -/
theorem rawOf_op (i : Instr) : (rawOf i).op = i.opcode.byte := by cases i <;> rfl

end Sys2Proof.Machine
end

section
/-! PROOFS. The invariant: in named parts, kept by the transactions and the ends of commands, by every phase, and so by every
step; from it the faults a step can end in. -/

namespace Sys2Proof.Machine

/-! ## The invariant in named parts -/

/-- FB is in canonical form and within its size, and FLEN within MAX_FRAME (R28, R60). -/
def Codec.Sound (c : Codec) : Prop := c.fb.wf = true ∧ c.fb.below 1033 = true ∧ c.flen.toNat ≤ 1033

/-- RB is in canonical form and within its size, and so are the counters of its bytes (R30, R62). -/
def Reply.Sound (r : Reply) : Prop :=
  r.rb.wf = true ∧ r.rb.below 9 = true ∧ r.rexp.toNat ≤ 9 ∧ r.rcnt.toNat ≤ 9

/-- STR is in canonical form and within its size (R63, log entry 13). -/
def Latch.Sound (l : Latch) : Prop := l.str.wf = true ∧ l.str.below 1019 = true

/-- The result registers carry NoError exactly on success (R33). -/
def Result.Settled (r : Result) : Prop := (r.ok == (r.err == .noError)) = true

/-- The parts of the invariant, each as a proposition. -/
structure State.Sound (s : State) : Prop where
  codec : s.codec.Sound
  reply : s.reply.Sound
  latch : s.latch.Sound
  session : s.session = .awaitingHandshake ↔ s.txOpcode = 0x00 ∧ s.ph.midTransaction = true
  result : s.result.ok? = true
  settled : s.result.valid = true ∨ s.ph = .done ∨ s.seq = true ∧ s.latch.op = 0x2E → s.result.Settled
  valid : s.result.valid = true → s.ph = .idle
  seq : s.seq = true → s.latch.op = 0x01 ∨ s.latch.op = 0x2E
  phase : s.phaseOk = true

theorem State.buffersOk_countersOk_iff (s : State) :
    (s.buffersOk = true ∧ s.countersOk = true) ↔ s.codec.Sound ∧ s.reply.Sound ∧ s.latch.Sound := by
  simp only [State.buffersOk, State.countersOk, Bool.and_eq_true, decide_eq_true_eq]
  simp only [Config.maxFrame_eq, Config.maxStr_eq, Codec.Sound, Reply.Sound, Latch.Sound]
  tauto

theorem State.sessionOk_iff (s : State) :
    s.sessionOk = true ↔ (s.session = .awaitingHandshake ↔ s.txOpcode = 0x00 ∧ s.ph.midTransaction = true) := by
  rw [State.sessionOk, beq_iff_eq, Bool.eq_iff_iff, Bool.and_eq_true, beq_iff_eq, beq_iff_eq]

theorem State.resultOk_iff (s : State) :
    s.resultOk = true ↔
      s.result.ok? = true ∧
        (s.result.valid = true ∨ s.ph = .done ∨ s.seq = true ∧ s.latch.op = 0x2E → s.result.Settled) := by
  simp only [State.resultOk, Result.Settled, Bool.and_eq_true, Bool.or_eq_true, Bool.not_eq_true', beq_iff_eq,
    ← Bool.not_eq_true, or_assoc, ← imp_iff_not_or]

theorem State.validOk_iff (s : State) : s.validOk = true ↔ (s.result.valid = true → s.ph = .idle) := by
  simp only [State.validOk, Bool.or_eq_true, Bool.not_eq_true', ← Bool.not_eq_true, beq_iff_eq, ← imp_iff_not_or]

theorem State.seqOk_iff (s : State) : s.seqOk = true ↔ (s.seq = true → s.latch.op = 0x01 ∨ s.latch.op = 0x2E) := by
  rw [State.seqOk, Bool.or_assoc]
  simp only [Bool.or_eq_true, Bool.not_eq_true', ← Bool.not_eq_true, beq_iff_eq, ← imp_iff_not_or]

/-- The invariant is the conjunction of its named parts. -/
theorem State.inv_iff (s : State) : s.Inv = true ↔ s.Sound := by
  have hdata := s.buffersOk_countersOk_iff
  simp only [State.Inv, Bool.and_eq_true, State.sessionOk_iff, State.resultOk_iff, State.validOk_iff, State.seqOk_iff]
  constructor
  · rintro ⟨⟨⟨⟨⟨hbuffers, hsession⟩, hresult, hsettled⟩, hvalid⟩, hseq⟩, hphase⟩
    obtain ⟨hcodec, hreply, hlatch⟩ := hdata.mp hbuffers
    exact ⟨hcodec, hreply, hlatch, hsession, hresult, hsettled, hvalid, hseq, hphase⟩
  · rintro ⟨hcodec, hreply, hlatch, hsession, hresult, hsettled, hvalid, hseq, hphase⟩
    exact ⟨⟨⟨⟨⟨hdata.mpr ⟨hcodec, hreply, hlatch⟩, hsession⟩, hresult, hsettled⟩, hvalid⟩, hseq⟩, hphase⟩

/-- Settles O2: each part is evaluated on the reset state. -/
theorem resetInv : Obligations.ResetInv := ⟨by decide, by decide⟩

/-- No part of the invariant speaks of the surroundings. -/
theorem State.Sound.withEnv {s : State} (h : s.Sound) (e : Env) : { s with env := e }.Sound :=
  ⟨h.codec, h.reply, h.latch, h.session, h.result, h.settled, h.valid, h.seq, h.phase⟩

/-- Outside PH_IDLE no result is valid. -/
theorem State.Sound.not_valid {s : State} (h : s.Sound) (hph : s.ph ≠ .idle) : s.result.valid ≠ true :=
  fun hv => hph (h.valid hv)

/-! ## The buffers -/

/-- An issue keeps STR sound: no more than 1019 characters are latched (R130, log entry 13). -/
theorem Latch.Sound.accept {l : Latch} (h : l.Sound) (c : RawIssue) : (l.accept c).Sound := by
  obtain ⟨hwf, hbelow⟩ := h
  refine ⟨Memory.wf_writeBytes hwf 0 _, Memory.below_writeBytes hbelow 0 _ ?_⟩
  simp only [List.length_take, Config.maxStr_eq]
  omega

/-- A frame that fits keeps the codec sound. -/
theorem Codec.Sound.updated {o : Byte} {p : List Byte} {c c' : Codec} (h : c.Sound) (hu : c.Updated o p c') : c'.Sound := by
  obtain ⟨hwf, hbelow, hflen⟩ := h
  cases hu with
  | untouched => exact ⟨hwf, hbelow, hflen⟩
  | sent hp draws =>
    refine ⟨Memory.wf_writeBytes hwf 0 _, Memory.below_writeBytes hbelow 0 _ ?_, ?_⟩
    · rw [frameBytes_length]
      omega
    · simp only [Codec.sent, BitVec.toNat_ofNat]
      omega

/-- A read of at most nine bytes keeps the reply side sound. -/
theorem Reply.Sound.updated {n : Nat} (hn : n ≤ 9) {r r' : Reply} (h : r.Sound) (hu : r.Updated n r') : r'.Sound := by
  obtain ⟨hwf, hbelow, hrexp, hrcnt⟩ := h
  have hn' : (BitVec.ofNat 4 n).toNat ≤ 9 := by
    rw [BitVec.toNat_ofNat]
    omega
  cases hu with
  | untouched => exact ⟨hwf, hbelow, hrexp, hrcnt⟩
  | expecting => exact ⟨hwf, hbelow, hn', hrcnt⟩
  | received bs hlen =>
    refine ⟨Memory.wf_writeBytes hwf 0 bs, Memory.below_writeBytes hbelow 0 bs (by omega), hn', ?_⟩
    rw [BitVec.toNat_ofNat]
    omega

/-! ## The outcomes -/

/-- The number a run of digits stands for has no more digits than the run (R151). -/
theorem decimal_foldl_lt {ds : List Byte} (h : ∀ b ∈ ds, isDigit b = true) (v : Nat) :
    ds.foldl (fun v b => v * 10 + (b.toNat - 0x30)) v < (v + 1) * 10 ^ ds.length := by
  induction ds generalizing v with
  | nil => simp
  | cons b rest ih =>
    have hb := h b List.mem_cons_self
    simp only [isDigit, Bool.and_eq_true, decide_eq_true_eq] at hb
    rw [List.foldl_cons, List.length_cons, Nat.pow_succ']
    calc rest.foldl (fun v b => v * 10 + (b.toNat - 0x30)) (v * 10 + (b.toNat - 0x30))
        < (v * 10 + (b.toNat - 0x30) + 1) * 10 ^ rest.length := ih (fun c hc => h c (List.mem_cons_of_mem b hc)) _
      _ ≤ ((v + 1) * 10) * 10 ^ rest.length := Nat.mul_le_mul_right _ (by omega)
      _ = (v + 1) * (10 * 10 ^ rest.length) := Nat.mul_assoc ..

/-- At most nine digits stand for at most 999999999 (R151). -/
theorem decimal_le {ds : List Byte} (h : ∀ b ∈ ds, isDigit b = true) (hlen : ds.length ≤ 9) : decimal ds ≤ 999999999 := by
  have hlt : decimal ds < (0 + 1) * 10 ^ ds.length := decimal_foldl_lt h 0
  have hpow : 10 ^ ds.length ≤ 10 ^ 9 := Nat.pow_le_pow_right (by omega) hlen
  omega

/-- An outcome the result registers may be written from: RES_NUM in its range, and an error on a failure (R138, R151). -/
def TxOut.Sound : TxOut → Prop
  | .ok p => p.num.toNat ≤ 999999999
  | .fail k _ => k ≠ .noError

/-- The decoders give sound outcomes of at most nine bytes (R141 to R145). -/
theorem decodeReply_sound (shape : Shape) {rb : List Byte} (h : rb.length ≤ 9) : (decodeReply shape rb).Sound := by
  have hzero : (0 : Word32).toNat ≤ 999999999 := by decide
  cases shape with
  | ack =>
    change (decodeAck rb).Sound
    unfold decodeAck shortReply
    repeat' split
    exacts [nofun, hzero, nofun]
  | byte d =>
    change (decodeByte d rb).Sound
    unfold decodeByte shortReply
    split
    exacts [nofun, hzero]
  | colorPair =>
    change (decodeColorPair rb).Sound
    unfold decodeColorPair shortReply
    split
    exacts [nofun, hzero]
  | numericAscii =>
    change (decodeNumericAscii rb).Sound
    unfold decodeNumericAscii
    repeat' split
    · nofun
    · nofun
    · have hlen := (List.takeWhile_prefix isDigit (l := rb)).length_le
      have hdec := decimal_le (ds := rb.takeWhile isDigit) (fun b => List.mem_takeWhile_imp) (by omega)
      simp only [TxOut.Sound, BitVec.toNat_ofNat]
      omega
  | none => exact hzero

/-- The outcome of a transaction that asks for at most nine bytes is sound. -/
theorem transaction_outcome_sound (o : Byte) (p : List Byte) (shape : Shape) {n : Nat} (hn : n ≤ 9) (s : State) :
    (transaction o p shape n s).2.Sound := by
  cases h : frameEncode o p s.codec with
  | none =>
    rw [transaction_of_tooLong shape n h]
    nofun
  | some c =>
    rw [transaction_of_encoded shape n h]
    unfold afterWrite
    split
    · nofun
    · split
      · unfold afterRead
        obtain ⟨_, hread⟩ | ⟨bs, _, hlen, hread⟩ :=
          readReply_cases ((State.sendFrame { s.beginTransaction o with codec := c }).2.settle o) o n
        · rw [hread]
          nofun
        · rw [hread]
          exact decodeReply_sound shape (hlen.trans hn)
      · exact decodeReply_sound .none (rb := []) (Nat.zero_le 9)

/-- The outcome of a command's own transaction is sound. -/
theorem ownTransaction_outcome_sound (i : Instr) (s : State) : (ownTransaction i s).2.Sound := by
  cases h : i.wellFormed with
  | true =>
    rw [ownTransaction_of_wellFormed h]
    exact transaction_outcome_sound _ _ _ (readCount_le i h) s
  | false =>
    rw [ownTransaction_of_illFormed h]
    nofun

/-- The result registers written from a sound outcome agree with each other, also once RES_VALID is set (R139). -/
theorem TxOut.Sound.record {out : TxOut} (h : out.Sound) (q : Bool) (r : Result) (v : Bool) :
    { out.record q r with valid := v }.ok? = true ∧ { out.record q r with valid := v }.Settled := by
  cases out with
  | ok p =>
    have hnum : p.num.toNat ≤ 999999999 := h
    exact ⟨by simp [Result.ok?, TxOut.record, hnum], rfl⟩
  | fail k p =>
    have herr : k ≠ .noError := h
    exact ⟨by simp [Result.ok?, TxOut.record], by simp [Result.Settled, TxOut.record, herr]⟩

/-! ## The end of a command -/

/-- A completion keeps what a transaction of at most nine bytes keeps: sound buffers, and S settled. -/
theorem completion_keeps_sound (i : Instr) {p : State × TxOut} (hcodec : p.1.codec.Sound) (hreply : p.1.reply.Sound)
    (hsession : p.1.session ≠ .awaitingHandshake) :
    (completion i p).codec.Sound ∧ (completion i p).reply.Sound ∧ (completion i p).session ≠ .awaitingHandshake := by
  refine completion_keeps
    (P := fun u => u.codec.Sound ∧ u.reply.Sound ∧ u.session ≠ .awaitingHandshake) i ?_ (fun _ _ _ _ h => h)
    ⟨hcodec, hreply, hsession⟩
  rintro - u ⟨hcodec, hreply, -⟩
  refine ⟨hcodec.updated (transaction_codec 0x00 [] .ack 2 u),
    hreply.updated (by omega) (transaction_reply 0x00 [] .ack 2 u), ?_⟩
  obtain ⟨-, -, -, -, h⟩ := transaction_frame 0x00 [] .ack 2 u
  rw [h, if_pos rfl]
  split <;> nofun

/-- A command's own transaction keeps the buffers sound and leaves S settled. -/
theorem ownTransaction_keeps_sound (i : Instr) {s : State} (hcodec : s.codec.Sound) (hreply : s.reply.Sound)
    (hsession : s.session ≠ .awaitingHandshake) :
    (ownTransaction i s).1.codec.Sound ∧ (ownTransaction i s).1.reply.Sound ∧
      (ownTransaction i s).1.session ≠ .awaitingHandshake := by
  refine ⟨hcodec.updated (ownTransaction_codec i s), hreply.updated ?_ (ownTransaction_reply i s), ?_⟩
  · split
    · exact readCount_le i ‹_›
    · omega
  · obtain ⟨-, -, h⟩ := ownTransaction_frame i s
    rw [h]
    repeat' split
    exacts [nofun, nofun, hsession]

/-- A command leaves result registers that agree with each other and carry NoError exactly on success (R139). -/
theorem exec_result_sound {i : Instr} {s t : State} (h : exec i s = .next t) :
    t.result.ok? = true ∧ t.result.Settled := by
  obtain ⟨-, rfl⟩ := exec_next h
  rw [State.finish_result]
  obtain ⟨r, hr⟩ | ⟨-, u, r, hr, -⟩ := completion_result i (ownTransaction i (s.issue (rawOf i)))
  · rw [hr]
    exact (ownTransaction_outcome_sound i _).record _ r true
  · rw [hr]
    exact (transaction_outcome_sound 0x00 [] .ack (by omega) u).record true r true

/-- Outside the phases of a transaction S is settled (R32). -/
theorem State.Sound.session_settled {s : State} (h : s.Sound) (hph : s.ph.midTransaction = false) :
    s.session ≠ .awaitingHandshake := fun hs => by
  obtain ⟨-, hmid⟩ := h.session.mp hs
  rw [hph] at hmid
  cases hmid

/-- A command keeps the invariant. -/
theorem State.Sound.exec {i : Instr} {s t : State} (h : s.Sound) (he : Machine.exec i s = .next t) : t.Sound := by
  have hlatch := exec_latch he
  have hph := exec_ph he
  obtain ⟨hok, hsettled⟩ := exec_result_sound he
  obtain ⟨hidle, ht⟩ := exec_next he
  obtain ⟨hcodec, hreply, hsession⟩ := ownTransaction_keeps_sound i (s := s.issue (rawOf i)) h.codec h.reply
    (h.session_settled (by rw [hidle]; rfl))
  obtain ⟨hcodec', hreply', hsession'⟩ := completion_keeps_sound i hcodec hreply hsession
  rw [← State.finish_codec, ← ht] at hcodec'
  rw [← State.finish_reply, ← ht] at hreply'
  rw [← State.finish_session, ← ht] at hsession'
  refine ⟨hcodec', hreply', ?_, ?_, hok, fun _ => hsettled, fun _ => hph, fun hseq => ?_, ?_⟩
  · rw [hlatch]
    exact h.latch.accept _
  · rw [hph]
    exact iff_of_false hsession' (fun hmid => by cases hmid.2)
  · rw [hlatch, show (s.latch.accept (rawOf i)).op = i.opcode.byte from rawOf_op i]
    obtain hi | hi := exec_seq he hseq
    · exact .inr (by rw [hi]; rfl)
    · exact .inl (by rw [hi]; rfl)
  · rw [State.phaseOk, hph]

/-! ## What the host may do to a sound state -/

/-- The invariant holds after a reset at any time (R39). -/
theorem State.Sound.resetBlock (s : State) : s.resetBlock.Sound :=
  ((State.inv_iff State.reset).mp resetInv.1).withEnv s.env

/-- An issue at PH_IDLE keeps the invariant (R130). -/
theorem State.Sound.issue {s : State} (h : s.Sound) (hph : s.ph = .idle) (c : RawIssue) : (s.issue c).Sound where
  codec := h.codec
  reply := h.reply
  latch := h.latch.accept c
  session := iff_of_false (h.session_settled (by rw [hph]; rfl)) (fun hmid => by cases hmid.2)
  result := h.result
  settled := by rintro (hvalid | hdone | ⟨hseq, -⟩) <;> contradiction
  valid := nofun
  seq := nofun
  phase := rfl

/-! ## The phases -/

/-- The byte of the opcode a byte names is that byte (R104). -/
theorem byte_of_ofByte {b : Byte} {o : Opcode} (h : Opcode.ofByte b = some o) : o.byte = b :=
  eq_of_beq (List.find?_some (p := fun o : Opcode => o.byte == b) h)

/-- In an encoded transaction a reply has at most nine bytes: nine is the largest legal read size (R24, R140). -/
theorem State.txCount_le {s : State} (h : s.encodedOk = true) : s.txCount ≤ 9 := by
  unfold State.txCount State.txShape
  cases hseq : s.seq with
  | true => exact of_decide_eq_true rfl
  | false =>
    cases ho : Opcode.ofByte s.latch.op with
    | none => exact Nat.zero_le 9
    | some o =>
      have hbyte := byte_of_ofByte ho
      cases o with
      | getBaudRate =>
        rw [State.encodedOk, hseq, ← hbyte] at h
        exact readSizeLegal_le (by simpa [Opcode.byte] using h)
      | _ => exact of_decide_eq_true rfl

/-- Inside a transaction the invariant is kept by a move to another phase of it that its opcode has a rule for, with sound
buffers. -/
theorem State.Sound.advance {s : State} (h : s.Sound) (hph : s.ph.midTransaction = true) {c : Codec} {r : Reply} {e : Env}
    {ph' : Phase} (hph' : ph'.midTransaction = true) (hcodec : c.Sound) (hreply : r.Sound)
    (hphase : ({ s with codec := c, reply := r, env := e, ph := ph' } : State).phaseOk = true) :
    ({ s with codec := c, reply := r, env := e, ph := ph' } : State).Sound where
  codec := hcodec
  reply := hreply
  latch := h.latch
  session := by
    rw [h.session, hph]
    exact and_congr_right' (iff_of_true rfl hph')
  result := h.result
  settled := by
    rintro (hvalid | hdone | hseq)
    · exact h.settled (.inl hvalid)
    · rw [show ph' = .done from hdone] at hph'
      cases hph'
    · exact h.settled (.inr (.inr hseq))
  valid hvalid := by
    rw [h.valid hvalid] at hph
    cases hph
  seq := h.seq
  phase := hphase

@[simp] theorem State.endTransaction_latch (s : State) (out : TxOut) : (s.endTransaction out).latch = s.latch := rfl
@[simp] theorem State.endTransaction_codec (s : State) (out : TxOut) : (s.endTransaction out).codec = s.codec := rfl
@[simp] theorem State.endTransaction_reply (s : State) (out : TxOut) : (s.endTransaction out).reply = s.reply := rfl
@[simp] theorem State.endTransaction_env (s : State) (out : TxOut) : (s.endTransaction out).env = s.env := rfl

/-- The end of a Handshake moves S, that of another transaction does not (R138). -/
@[simp] theorem State.endTransaction_session (s : State) (out : TxOut) :
    (s.endTransaction out).session =
      if s.txOpcode = 0x00 then (if out.isOk then .ready else .idle) else s.session := rfl

/-- The end of a transaction records its outcome, unless an earlier failure of a ClearScreen stands (R148). -/
@[simp] theorem State.endTransaction_result (s : State) (out : TxOut) :
    (s.endTransaction out).result = if s.keepsFirst then s.result else out.record s.seq s.result := rfl

/-- The end of a ClearScreen's transaction sets SEQ (R148). -/
@[simp] theorem State.endTransaction_seq (s : State) (out : TxOut) :
    (s.endTransaction out).seq = (s.seq || s.latch.op == 0x2E) := rfl

/-- The first transaction of a ClearScreen goes on to its Handshake, any other ends at PH_DONE (R138, R148). -/
@[simp] theorem State.endTransaction_ph (s : State) (out : TxOut) :
    (s.endTransaction out).ph = if s.latch.op = 0x2E ∧ s.seq = false then .discard else .done := rfl

/-- A recorded outcome leaves RES_VALID alone (R139). -/
@[simp] theorem TxOut.record_valid (out : TxOut) (q : Bool) (r : Result) : (out.record q r).valid = r.valid := by
  cases out <;> rfl

/-- The end of a transaction keeps the invariant (R138, R148): S is settled, and the outcome is recorded, unless an earlier one
of a ClearScreen stands. -/
theorem State.Sound.endTransaction {s : State} (h : s.Sound) (hph : s.ph.midTransaction = true) {out : TxOut}
    (hout : out.Sound) : (s.endTransaction out).Sound := by
  have hidle : s.ph ≠ .idle := fun hidle => by
    rw [hidle] at hph
    cases hph
  have hok : (s.endTransaction out).result.ok? = true ∧ (s.endTransaction out).result.Settled := by
    rw [State.endTransaction_result]
    split
    · rename_i hkeep
      simp only [State.keepsFirst, Bool.and_eq_true, beq_iff_eq] at hkeep
      exact ⟨h.result, h.settled (.inr (.inr hkeep.1))⟩
    · have hrecord := hout.record s.seq s.result s.result.valid
      cases out <;> exact hrecord
  have hend : (s.endTransaction out).ph = .discard ∨ (s.endTransaction out).ph = .done := by
    rw [State.endTransaction_ph]
    split
    exacts [.inl rfl, .inr rfl]
  obtain ⟨hagrees, hsettled⟩ := hok
  refine ⟨h.codec, h.reply, h.latch, ?_, hagrees, fun _ => hsettled, fun hv => ?_, fun hseq => ?_, ?_⟩
  · refine iff_of_false ?_ ?_
    · rw [State.endTransaction_session]
      by_cases ho : s.txOpcode = 0x00
      · rw [if_pos ho]
        split <;> nofun
      · rw [if_neg ho]
        exact fun hs => ho (h.session.mp hs).1
    · obtain hend | hend := hend <;> (rw [hend]; exact fun hmid => by cases hmid.2)
  · have hvalid : s.result.valid = true := by
      rw [State.endTransaction_result] at hv
      split at hv
      · exact hv
      · rwa [TxOut.record_valid] at hv
    exact absurd hvalid (h.not_valid hidle)
  · rw [State.endTransaction_seq, Bool.or_eq_true, beq_iff_eq] at hseq
    exact hseq.elim h.seq .inr
  · obtain hend | hend := hend <;> rw [State.phaseOk, hend]

/-- PH_DISCARD keeps the invariant: a Handshake moves S (R132). -/
theorem State.Sound.phDiscard {s : State} (h : s.Sound) (hph : s.ph = .discard) : (phDiscard s).Sound where
  codec := h.codec
  reply := h.reply
  latch := h.latch
  session := by
    change (if s.txOpcode = 0x00 then Session.awaitingHandshake else s.session) = .awaitingHandshake ↔
      s.txOpcode = 0x00 ∧ _
    by_cases ho : s.txOpcode = 0x00
    · rw [if_pos ho]
      exact iff_of_true rfl ⟨ho, rfl⟩
    · rw [if_neg ho]
      exact iff_of_false (h.session_settled (by rw [hph]; rfl)) (fun hmid => ho hmid.1)
  result := h.result
  settled := by
    rintro (hvalid | hdone | hseq)
    · exact h.settled (.inl hvalid)
    · cases hdone
    · exact h.settled (.inr (.inr hseq))
  valid hvalid := absurd hvalid (h.not_valid (by rw [hph]; nofun))
  seq := h.seq
  phase := rfl

/-- An encode that succeeds keeps the codec sound (R107). -/
theorem Codec.Sound.frameEncode {c d : Codec} (h : c.Sound) {o : Byte} {p : List Byte}
    (he : Machine.frameEncode o p c = some d) : d.Sound := by
  obtain ⟨hwf, hbelow, -⟩ := h
  exact frameEncode_keeps hwf hbelow he

/-- A payload built with every operand written comes from a known opcode whose read size is legal and whose rate holds a value
(R24, R25, R108). -/
theorem State.encoded_of_txPayload {s : State} {p : List Byte} (hp : s.txPayload = some p)
    (hw : (s.seq || s.latch.operandsWritten) = true) : s.txShape.isSome = true ∧ s.encodedOk = true := by
  unfold State.txShape State.encodedOk
  cases hseq : s.seq with
  | true => exact ⟨rfl, rfl⟩
  | false =>
    rw [State.txPayload, hseq, if_neg nofun, Latch.buildPayload] at hp
    rw [hseq, Bool.false_or, Latch.operandsWritten] at hw
    cases ho : Opcode.ofByte s.latch.op with
    | none => simp [ho] at hp
    | some o =>
      rw [ho] at hp hw
      refine ⟨rfl, ?_⟩
      rw [← byte_of_ofByte ho]
      cases o with
      | getBaudRate =>
        cases hn : readSizeLegal s.latch.nread with
        | true => rfl
        | false => simp [hn] at hp
      | setBaudRate => simpa [Opcode.byte, Opcode.format, Latch.formatWritten] using hw
      | _ => rfl

/-- PH_ENCODE keeps the invariant (R133). -/
theorem State.Sound.phEncode {s : State} (h : s.Sound) (hph : s.ph = .encode)
    (hw : (s.seq || s.latch.operandsWritten) = true) : (phEncode s).Sound := by
  have hmid : s.ph.midTransaction = true := by rw [hph]; rfl
  unfold Machine.phEncode
  split
  · exact h.endTransaction hmid nofun
  · rename_i p hp
    split
    · exact h.endTransaction hmid nofun
    · rename_i c hc
      exact h.advance hmid rfl (h.codec.frameEncode hc) h.reply
        (Bool.and_eq_true_iff.mpr (s.encoded_of_txPayload hp hw))

/-- A write keeps the invariant inside a transaction: IDX and the surroundings are all it changes (R134). -/
theorem State.Sound.sendFrame {s : State} (h : s.Sound) : s.sendFrame.2.Sound :=
  ⟨h.codec, h.reply, h.latch, h.session, h.result, h.settled, h.valid, h.seq, h.phase⟩

/-- PH_RECONF is entered by a SetBaudRate only, whose transaction leaves S settled (R148). -/
theorem State.Sound.enterReconf {s : State} (h : s.Sound) (hph : s.ph = .write) (hseq : s.seq = false)
    (hop : s.latch.op = 0x01) : ({ s with ph := .reconf } : State).Sound where
  codec := h.codec
  reply := h.reply
  latch := h.latch
  session := by
    refine iff_of_false (fun hs => ?_) (fun hmid => by cases hmid.2)
    have ho := (h.session.mp hs).1
    rw [State.txOpcode, hseq, hop] at ho
    cases ho
  result := h.result
  settled := by
    rintro (hvalid | hdone | hcs)
    · exact h.settled (.inl hvalid)
    · cases hdone
    · exact h.settled (.inr (.inr hcs))
  valid hvalid := absurd hvalid (h.not_valid (by rw [hph]; nofun))
  seq := h.seq
  phase := by
    have hphase := h.phase
    rw [State.phaseOk, hph, State.encodedOk, hseq, hop] at hphase
    rw [State.phaseOk, hseq, hop]
    simpa using (Bool.and_eq_true_iff.mp hphase).2

/-- PH_WRITE keeps the invariant (R134). -/
theorem State.Sound.phWrite {s : State} (h : s.Sound) (hph : s.ph = .write) : (phWrite s).Sound := by
  have hmid : s.ph.midTransaction = true := by rw [hph]; rfl
  unfold Machine.phWrite
  dsimp only
  split
  · exact h.sendFrame.endTransaction hmid nofun
  · split
    · rename_i hop
      exact h.sendFrame.enterReconf hph hop.1 hop.2
    · split
      · rename_i hreads
        have hphase := h.phase
        simp only [State.phaseOk, hph, Bool.and_eq_true] at hphase
        exact h.sendFrame.advance hmid rfl h.sendFrame.codec h.reply
          (Bool.and_eq_true_iff.mpr ⟨hreads, hphase.2⟩)
      · exact h.sendFrame.endTransaction hmid (decodeReply_sound .none (rb := []) (Nat.zero_le 9))

/-- PH_SETTLE keeps the invariant (R135). -/
theorem State.Sound.phSettle {s : State} (h : s.Sound) (hph : s.ph = .settle) : (phSettle s).Sound := by
  have hphase := h.phase
  rw [State.phaseOk, hph] at hphase
  exact h.advance (by rw [hph]; rfl) rfl h.codec h.reply hphase

/-- PH_READ keeps the invariant: at most REXP bytes are received (R136). -/
theorem State.Sound.phRead {s : State} (h : s.Sound) (hph : s.ph = .read) : (phRead s).Sound := by
  have hmid : s.ph.midTransaction = true := by rw [hph]; rfl
  have hphase := h.phase
  rw [State.phaseOk, hph] at hphase
  have hn : s.txCount ≤ 9 := State.txCount_le (Bool.and_eq_true_iff.mp hphase).2
  unfold Machine.phRead
  obtain ⟨e, hread⟩ | ⟨bs, e, hlen, hread⟩ := readReply_cases s s.txOpcode s.txCount
  · have hsound : ({ s with reply := { s.reply with rexp := BitVec.ofNat 4 s.txCount }, env := e } : State).Sound :=
      h.advance hmid hmid h.codec (h.reply.updated hn .expecting) (by rw [State.phaseOk, hph]; exact hphase)
    rw [hread]
    exact hsound.endTransaction hmid nofun
  · rw [hread]
    refine h.advance hmid rfl h.codec (h.reply.updated hn (.received bs hlen)) ?_
    refine Bool.and_eq_true_iff.mpr ⟨hphase, decide_eq_true ?_⟩
    simp only [BitVec.toNat_ofNat]
    omega

/-- PH_DECODE keeps the invariant: no more than nine bytes are decoded (R137). -/
theorem State.Sound.phDecode {s : State} (h : s.Sound) (hph : s.ph = .decode) : (phDecode s).Sound := by
  refine h.endTransaction (by rw [hph]; rfl) (decodeReply_sound _ ?_)
  obtain ⟨-, -, -, hrcnt⟩ := h.reply
  rwa [Reply.bytes, Memory.readBytes_length]

/-- PH_RECONF keeps the invariant: the Handshake of a SetBaudRate begins (R148). -/
theorem State.Sound.phReconf {s : State} (h : s.Sound) (hph : s.ph = .reconf) : (phReconf s).Sound := by
  have hphase := h.phase
  simp only [State.phaseOk, hph, Bool.and_eq_true, beq_iff_eq] at hphase
  obtain ⟨⟨-, hop⟩, -⟩ := hphase
  have hvalid : s.result.valid ≠ true := h.not_valid (by rw [hph]; nofun)
  refine ⟨h.codec, h.reply, h.latch, ?_, h.result, ?_, fun hv => absurd hv hvalid, fun _ => .inl hop, rfl⟩
  · exact iff_of_false (h.session_settled (by rw [hph]; rfl)) (fun hmid => by cases hmid.2)
  · rintro (hv | hdone | ⟨-, hcs⟩)
    · exact absurd hv hvalid
    · cases hdone
    · cases hop.symm.trans hcs

/-- PH_DONE keeps the invariant: the recorded outcome is settled (R138). -/
theorem State.Sound.returnToIdle {s : State} (h : s.Sound) (hph : s.ph = .done) : s.returnToIdle.Sound where
  codec := h.codec
  reply := h.reply
  latch := h.latch
  session := iff_of_false (h.session_settled (by rw [hph]; rfl)) (fun hmid => by cases hmid.2)
  result := h.result
  settled _ := h.settled (.inr (.inl hph))
  valid _ := rfl
  seq := h.seq
  phase := rfl

/-- A phase step that answers a next state passed its guard, and the state is the phase's. -/
theorem phaseStep_next {s t : State} (h : phaseStep s = .next t) : phaseGuard s = none ∧ t = phase s := by
  unfold phaseStep at h
  split at h
  · cases h
  · exact ⟨‹_›, (Host.Outcome.next.inj h).symm⟩

/-- A phase step keeps the invariant (R131). -/
theorem State.Sound.phaseStep {s t : State} (h : s.Sound) (hstep : Machine.phaseStep s = .next t) : t.Sound := by
  obtain ⟨hguard, rfl⟩ := phaseStep_next hstep
  unfold Machine.phase
  cases hph : s.ph with
  | idle => exact h
  | discard => exact h.phDiscard hph
  | encode =>
    refine h.phEncode hph ?_
    by_contra hw
    rw [phaseGuard, hph] at hguard
    exact nomatch (if_neg hw).symm.trans hguard
  | write => exact h.phWrite hph
  | settle => exact h.phSettle hph
  | read => exact h.phRead hph
  | decode => exact h.phDecode hph
  | reconf => exact h.phReconf hph
  | done => exact h.returnToIdle hph

/-- What a step can do, by the host's next move: a reset, an arrival, a command as a value or an issue at PH_IDLE, and else a
phase, of the state with or without that move (R130, R236, R286). -/
theorem step_cases (s : State) :
    step s = .next s.popMove.resetBlock ∨ (∃ bs, step s = .next (s.popMove.arrive bs)) ∨
      (∃ i, s.ph = .idle ∧ step s = exec i s.popMove) ∨ (∃ c, s.ph = .idle ∧ step s = .next (s.popMove.issue c)) ∨
      step s = phaseStep s.popMove ∨ step s = phaseStep s := by
  cases hm : s.env.moves with
  | nil =>
    iterate 5 right
    simp only [step, hm]
  | cons m ms =>
    cases m with
    | reset => exact .inl (by simp only [step, hm])
    | arrive bs => exact .inr (.inl ⟨bs, by simp only [step, hm]⟩)
    | wait =>
      iterate 4 right
      exact .inl (by simp only [step, hm])
    | issue i =>
      by_cases hph : s.ph = .idle
      · exact .inr (.inr (.inl ⟨i, hph, by simp only [step, hm, if_pos hph]⟩))
      · iterate 5 right
        simp only [step, hm, if_neg hph]
    | issueRaw c =>
      by_cases hph : s.ph = .idle
      · exact .inr (.inr (.inr (.inl ⟨c, hph, by simp only [step, hm, if_pos hph]⟩)))
      · iterate 5 right
        simp only [step, hm, if_neg hph]

/-- A step keeps the invariant. -/
theorem State.Sound.step {s t : State} (h : s.Sound) (hstep : Machine.step s = .next t) : t.Sound := by
  have hpop : s.popMove.Sound := h.withEnv _
  obtain hs | ⟨bs, hs⟩ | ⟨i, -, hs⟩ | ⟨c, hph, hs⟩ | hs | hs := step_cases s <;> rw [hs] at hstep
  · exact Host.Outcome.next.inj hstep ▸ .resetBlock _
  · exact Host.Outcome.next.inj hstep ▸ hpop.withEnv _
  · exact hpop.exec hstep
  · exact Host.Outcome.next.inj hstep ▸ hpop.issue hph c
  · exact hpop.phaseStep hstep
  · exact h.phaseStep hstep

/-- Settles O3: the invariant in its named parts is kept by a reset, an arrival, an issue, a command as a value and each of the
nine phases. -/
theorem stepKeepsInv : Obligations.StepKeepsInv := fun s t hinv hstep =>
  (State.inv_iff t).mpr (((State.inv_iff s).mp hinv).step hstep)

/-! ## The faults of a step -/

/-- In a sound state only an operand that was not written stops a phase (R25). -/
theorem State.Sound.phaseGuard {s : State} (h : s.Sound) {f : Fault} (hf : Machine.phaseGuard s = some f) :
    f = .operandNotWritten := by
  have hphase := h.phase
  obtain ⟨-, -, hflen⟩ := h.codec
  obtain ⟨-, -, -, hrcnt⟩ := h.reply
  cases hph : s.ph with
  | idle | discard | done => simp [Machine.phaseGuard, hph] at hf
  | encode =>
    simp only [Machine.phaseGuard, hph] at hf
    split at hf
    · cases hf
    · exact (Option.some.inj hf).symm
  | write =>
    simp only [State.phaseOk, hph, Bool.and_eq_true] at hphase
    have hshape : s.txShape ≠ none := Option.isSome_iff_ne_none.mp hphase.1
    simp [Machine.phaseGuard, hph, hshape, hflen] at hf
  | settle =>
    simp only [State.phaseOk, hph, Bool.and_eq_true] at hphase
    simp [Machine.phaseGuard, hph, hphase.1] at hf
  | read =>
    simp only [State.phaseOk, hph, Bool.and_eq_true] at hphase
    simp [Machine.phaseGuard, hph, hphase.1, State.txCount_le hphase.2] at hf
  | decode =>
    simp only [State.phaseOk, hph, Bool.and_eq_true] at hphase
    obtain ⟨⟨hreads, -⟩, -⟩ := hphase
    simp [Machine.phaseGuard, hph, hreads, hrcnt] at hf
  | reconf =>
    simp only [State.phaseOk, hph, Bool.and_eq_true, Bool.not_eq_true', beq_iff_eq] at hphase
    obtain ⟨⟨hseq, hop⟩, hrate⟩ := hphase
    simp [Machine.phaseGuard, hph, hseq, hop, hrate] at hf

/-- A phase step is never refused. -/
theorem phaseStep_ne_refused (s : State) (r : Refusal) : phaseStep s ≠ .refused r := by
  unfold phaseStep
  split <;> nofun

/-- A phase step faults only by its guard. -/
theorem phaseStep_fault {s : State} {f : Fault} (h : phaseStep s = .fault f) : phaseGuard s = some f := by
  unfold phaseStep at h
  split at h
  · rename_i g hg
    rw [hg, Host.Outcome.fault.inj h]
  · cases h

/-- A step ends in a next state, or it is a phase step of a state with the same registers. -/
theorem step_next_or_phaseStep (s : State) :
    (∃ t, step s = .next t) ∨ ∃ e, step s = phaseStep { s with env := e } := by
  obtain hs | ⟨bs, hs⟩ | ⟨i, hph, hs⟩ | ⟨c, -, hs⟩ | hs | hs := step_cases s
  · exact .inl ⟨_, hs⟩
  · exact .inl ⟨_, hs⟩
  · exact .inl ⟨_, hs.trans (exec_of_idle i hph)⟩
  · exact .inl ⟨_, hs⟩
  · exact .inr ⟨_, hs⟩
  · exact .inr ⟨s.env, hs⟩

/-- Settles O5: a step that is no phase step answers a next state, and the guard of a phase of a sound state stops at an unwritten
operand only. -/
theorem soundStepFaults : Obligations.SoundStepFaults := by
  intro s hinv
  have h := (State.inv_iff s).mp hinv
  obtain ⟨t, hnext⟩ | ⟨e, hphase⟩ := step_next_or_phaseStep s
  · rw [hnext]
    exact ⟨nofun, nofun⟩
  · rw [hphase]
    exact ⟨phaseStep_ne_refused _, fun f hf => (h.withEnv e).phaseGuard (phaseStep_fault hf)⟩

end Sys2Proof.Machine
end

section
/-! PROOFS. What a command leaves unchanged: the latch, the buffers and S; where RES_SEQ comes from; and what a command does not
read: the old contents of FB and RB, and the old latch. -/

namespace Sys2Proof.Machine

/-! ## The latch -/

/-- An issue writes SLEN and STR of a string command only, with the command's string (R23, R130). -/
theorem rawOf_text (i : Instr) :
    (i.opcode.format = .ps ∧ (rawOf i).slen = some (slenOf i.text) ∧ (rawOf i).str = some i.text) ∨
      (i.opcode.format ≠ .ps ∧ (rawOf i).slen = none ∧ (rawOf i).str = none) := by
  cases i with
  | displayText _ _ _ | displayImage _ _ _ => exact .inl ⟨rfl, rfl, rfl⟩
  | _ => exact .inr ⟨nofun, rfl, rfl⟩

/-- An issue keeps every operand register whose format the opcode does not have (R100, R104, R130). -/
theorem accept_rawOf_keeps (l : Latch) (i : Instr) :
    ((l.accept (rawOf i)).x0 = l.x0 ∨ i.opcode.format ≠ .p0 ∧ i.opcode.format ≠ .pr) ∧
    ((l.accept (rawOf i)).x1 = l.x1 ∨ i.opcode.format = .pe2 .color .color ∨ i.opcode.format = .pc2 ∨
      i.opcode.format = .pc3 ∨ i.opcode.format = .pc4 ∨ i.opcode.format = .pc6 ∨ i.opcode.format = .ps) ∧
    ((l.accept (rawOf i)).x2 = l.x2 ∨ i.opcode.format = .pc3 ∨ i.opcode.format = .pc4 ∨ i.opcode.format = .pc6) ∧
    ((l.accept (rawOf i)).x3 = l.x3 ∨ i.opcode.format = .pc4 ∨ i.opcode.format = .pc6) ∧
    ((l.accept (rawOf i)).x4 = l.x4 ∧ (l.accept (rawOf i)).x5 = l.x5 ∨ i.opcode.format = .pc6) ∧
    ((l.accept (rawOf i)).rate = l.rate ∨ i.opcode = .setBaudRate) ∧
    ((l.accept (rawOf i)).nread = l.nread ∨ i.opcode = .getBaudRate) ∧
    ((l.accept (rawOf i)).slen = l.slen ∧ (l.accept (rawOf i)).str = l.str ∨ i.opcode.format = .ps) := by
  cases i <;> simp [Latch.accept, rawOf, Instr.opcode, Opcode.format, Memory.writeBytes]

/-- A string of at most 1019 characters is latched whole (R23). -/
theorem accept_rawOf_text {l : Latch} {i : Instr} (hl : l.str.wf = true) (hi : i.opcode.format = .ps)
    (hlen : i.text.length ≤ 1019) :
    (l.accept (rawOf i)).slen.toNat = i.text.length ∧
      (l.accept (rawOf i)).str.readBytes 0 i.text.length = i.text := by
  obtain ⟨-, hslen, hstr⟩ | ⟨hformat, -, -⟩ := rawOf_text i
  · have htake : i.text.take Config.maxStr = i.text := List.take_of_length_le hlen
    constructor
    · simp only [Latch.accept, hslen, slenOf, Option.getD_some, BitVec.toNat_ofNat]
      omega
    · simp only [Latch.accept, hstr, Option.getD_some, htake]
      exact Memory.readBytes_writeBytes hl 0 i.text
  · exact absurd hi hformat

/-- Settles O39: the latch after a command is the one its issue wrote, register by register, and SEQ is set by the composite
commands only. -/
theorem latchFrame : Obligations.LatchFrame := by
  intro i s t h
  rw [exec_latch h]
  obtain ⟨hx0, hx1, hx2, hx3, hx45, hrate, hnread, hstr⟩ := accept_rawOf_keeps s.latch i
  refine ⟨rawOf_op i, hx0, hx1, hx2, hx3, hx45, hrate, hnread, hstr, ?_, ?_, ?_, ?_, ?_, ?_, ?_, ?_,
    accept_rawOf_text, ?_, exec_seq h⟩
  iterate 6
    · intro v hv
      simp only [Latch.accept, hv, Option.getD_some]
  · rintro r rfl
    rfl
  · rintro n rfl
    rfl
  · rintro a b c d e f (rfl | rfl) <;> exact ⟨rfl, rfl, rfl, rfl, rfl, rfl⟩

/-! ## The session -/

/-- Settles O41: no other command is composite, and its own transaction moves S only under the opcode of a Handshake. -/
theorem sessionFrame : Obligations.SessionFrame := by
  intro i s t h hhandshake hclear hbaud
  obtain ⟨-, rfl⟩ := exec_next h
  obtain ⟨-, -, hsession⟩ := ownTransaction_frame i (s.issue (rawOf i))
  rw [if_neg (opcode_byte_ne_zero hhandshake)] at hsession
  exact completion_keeps (P := fun u => u.session = s.session) i (fun hi => absurd hi (by simp [hclear, hbaud]))
    (fun _ _ _ _ h => h) hsession

/-! ## The sequence register of the result -/

/-- RES_SEQ is recorded only from a failure with SEQ set (R139). -/
theorem TxOut.record_seq {out : TxOut} {q : Bool} {r : Result} (h : (out.record q r).seq = true) :
    out.isOk = false ∧ q = true := by
  cases out with
  | ok p => cases h
  | fail k p => exact ⟨rfl, h⟩

/-- RES_OK is recorded exactly from a success (R139). -/
theorem TxOut.record_ok (out : TxOut) (q : Bool) (r : Result) : (out.record q r).ok = out.isOk := by
  cases out <;> rfl

/-- Settles O46: SEQ is 0 in a command's own transaction, and a failure recorded with SEQ 1 is that of a Handshake, which leaves
S at Idle. -/
theorem resultSequence : Obligations.ResultSequence := by
  intro i s t h hseq
  obtain ⟨-, rfl⟩ := exec_next h
  obtain ⟨-, hown, -⟩ := ownTransaction_frame i (s.issue (rawOf i))
  rw [State.finish_result] at hseq ⊢
  obtain ⟨r, hr⟩ | ⟨hi, u, r, hr, hsession⟩ := completion_result i (ownTransaction i (s.issue (rawOf i)))
  · rw [hr, hown] at hseq
    cases (TxOut.record_seq hseq).2
  · rw [hr] at hseq ⊢
    obtain ⟨hfail, -⟩ := TxOut.record_seq hseq
    rw [State.finish_session, hsession, hfail]
    exact ⟨hi, (TxOut.record_ok _ _ _).trans hfail, rfl⟩

/-! ## The buffers -/

/-- A command's own read asks for no more bytes than the command may overwrite (R140). -/
theorem readCount_le_replySpan (i : Instr) : (if i.wellFormed then readCount i else 0) ≤ replySpan i := by
  cases h : i.wellFormed with
  | false => exact Nat.zero_le _
  | true =>
    cases i with
    | getBaudRate nread =>
      rw [wellFormed_getBaudRate] at h
      rw [replySpan, if_pos h]
      exact le_refl _
    | _ => exact of_decide_eq_true rfl

/-- A composite command may overwrite the two bytes of its Handshake's reply (R140, R148). -/
theorem two_le_replySpan {i : Instr} (h : i = .clearScreen ∨ i.opcode = .setBaudRate) : 2 ≤ replySpan i := by
  cases i with
  | clearScreen | setBaudRate _ => exact le_refl 2
  | _ => exact absurd h nofun

/-- FB above the command's frame after a command: its own frame and a Handshake's, which is no longer, leave it (R28). -/
theorem exec_fb {i : Instr} {s t : State} (hwf : s.codec.fb.wf = true) (h : exec i s = .next t) {a : Nat}
    (ha : (encode i).length ≤ a) : t.codec.fb.read a = s.codec.fb.read a := by
  obtain ⟨-, rfl⟩ := exec_next h
  rw [encode, frameBytes_length] at ha
  obtain ⟨hown, hread⟩ := (ownTransaction_codec i (s.issue (rawOf i))).fb hwf
  refine (completion_keeps (P := fun u => u.codec.fb.wf = true ∧ u.codec.fb.read a = s.codec.fb.read a) i ?_
    (fun _ _ _ _ h => h) ⟨hown, hread a ha⟩).2
  rintro - u ⟨hu, hread⟩
  obtain ⟨hu', hread'⟩ := (transaction_codec 0x00 [] .ack 2 u).fb hu
  exact ⟨hu', (hread' a (le_trans (Nat.le_add_right 9 _) ha)).trans hread⟩

/-- RB above the bytes a command may overwrite (R30). -/
theorem exec_rb {i : Instr} {s t : State} (hwf : s.reply.rb.wf = true) (h : exec i s = .next t) {a : Nat}
    (ha : replySpan i ≤ a) : t.reply.rb.read a = s.reply.rb.read a := by
  obtain ⟨-, rfl⟩ := exec_next h
  obtain ⟨hown, hread⟩ := (ownTransaction_reply i (s.issue (rawOf i))).rb hwf
  refine (completion_keeps (P := fun u => u.reply.rb.wf = true ∧ u.reply.rb.read a = s.reply.rb.read a) i ?_
    (fun _ _ _ _ h => h) ⟨hown, hread a ((readCount_le_replySpan i).trans ha)⟩).2
  rintro hi u ⟨hu, hread⟩
  obtain ⟨hu', hread'⟩ := (transaction_reply 0x00 [] .ack 2 u).rb hu
  exact ⟨hu', (hread' a ((two_le_replySpan hi).trans ha)).trans hread⟩

/-- A command that fails a check leaves the codec and the reply side alone (R108, R231). -/
theorem exec_of_illFormed {i : Instr} {s t : State} (hi : i.wellFormed = false) (h : exec i s = .next t) :
    t.codec = s.codec ∧ t.reply = s.reply := by
  obtain ⟨-, rfl⟩ := exec_next h
  refine completion_keeps (P := fun u => u.codec = s.codec ∧ u.reply = s.reply) i ?_ (fun _ _ _ _ h => h) ?_
  · intro hcomposite
    cases i with
    | clearScreen | setBaudRate _ => cases hi
    | _ => exact absurd hcomposite nofun
  · rw [ownTransaction_of_illFormed hi]
    exact ⟨rfl, rfl⟩

/-- STR at and above the characters an issue latches (R63, R130). -/
theorem accept_str_read {l : Latch} (h : l.str.wf = true) (i : Instr) {a : Nat} (ha : min i.text.length 1019 ≤ a) :
    (l.accept (rawOf i)).str.read a = l.str.read a := by
  obtain ⟨-, -, hstr⟩ | ⟨-, -, hstr⟩ := rawOf_text i
  · simp only [Latch.accept, hstr, Option.getD_some]
    refine Memory.read_writeBytes_after h _ ?_
    rw [List.length_take, Config.maxStr_eq]
    omega
  · simp only [Latch.accept, hstr, Option.getD_none, List.take_nil]
    rfl

/-- Settles O40: each buffer is written from address 0 by the frames, the bytes received or the characters latched, and by
nothing else. -/
theorem bufferFrame : Obligations.BufferFrame := by
  intro i s t hfb hrb hstr h
  refine ⟨fun a ha => exec_fb hfb h ha, fun hi => exec_of_illFormed hi h, fun a ha => exec_rb hrb h ha, fun a ha => ?_⟩
  rw [exec_latch h]
  exact accept_str_read hstr i ha

end Sys2Proof.Machine
end

section
/-! PROOFS. What a command does not read: the latch an earlier command left (R25, R78) and the old contents of FB and RB (R28,
R30, R79). Each is a commutation: the command run on the changed state is the command's result, changed in that part only. -/

namespace Sys2Proof.Machine

/-! ## The latch of an earlier command -/

/-- The state with another latch. -/
def State.withLatch (s : State) (l : Latch) : State := { s with latch := l }

/-- A read does not see the latch. -/
theorem readReply_withLatch (o : Byte) (n : Nat) (s : State) (l : Latch) :
    (s.withLatch l).readReply o n = ((s.readReply o n).1, (s.readReply o n).2.withLatch l) := by
  unfold State.readReply
  dsimp only [State.withLatch]
  split <;> rfl

/-- What follows a write does not see the latch. -/
theorem afterWrite_withLatch (o : Byte) (shape : Shape) (n : Nat) (a : WriteAnswer) (s : State) (l : Latch) :
    afterWrite o shape n (a, s.withLatch l) =
      ((afterWrite o shape n (a, s)).1.withLatch l, (afterWrite o shape n (a, s)).2) := by
  cases a with
  | ioerr => rfl
  | ok =>
    simp only [afterWrite]
    split
    · rw [show (s.withLatch l).settle o = (s.settle o).withLatch l from rfl, readReply_withLatch]
      unfold afterRead
      dsimp only
      split <;> rfl
    · rfl

/-- A transaction does not see the latch: its opcode and payload are its arguments (R149). -/
theorem transaction_withLatch (o : Byte) (p : List Byte) (shape : Shape) (n : Nat) (s : State) (l : Latch) :
    transaction o p shape n (s.withLatch l) =
      ((transaction o p shape n s).1.withLatch l, (transaction o p shape n s).2) := by
  cases h : frameEncode o p s.codec with
  | none =>
    rw [transaction_of_tooLong shape n h, transaction_of_tooLong (s := s.withLatch l) shape n h]
    rfl
  | some c =>
    rw [transaction_of_encoded shape n h, transaction_of_encoded (s := s.withLatch l) shape n h]
    set u : State := { s.beginTransaction o with codec := c }
    exact afterWrite_withLatch o shape n u.sendFrame.1 u.sendFrame.2 l

/-- A command's own transaction does not see the latch. -/
theorem ownTransaction_withLatch (i : Instr) (s : State) (l : Latch) :
    ownTransaction i (s.withLatch l) = ((ownTransaction i s).1.withLatch l, (ownTransaction i s).2) := by
  cases h : i.wellFormed with
  | true =>
    rw [ownTransaction_of_wellFormed h, ownTransaction_of_wellFormed h]
    exact transaction_withLatch _ _ _ _ s l
  | false =>
    rw [ownTransaction_of_illFormed h, ownTransaction_of_illFormed h]
    rfl

/-- The Handshake of a SetBaudRate does not see the latch: the rate is its argument (R171). -/
theorem reconfigureAndVerify_withLatch (rate : Word32) (s : State) (l : Latch) :
    reconfigureAndVerify rate (s.withLatch l) = (reconfigureAndVerify rate s).withLatch l :=
  congrArg conclude
    (transaction_withLatch 0x00 [] .ack 2 { s with env := s.env.configureBaudRate rate, seq := true } l)

/-- The Handshake of a ClearScreen does not see the latch (R208). -/
theorem foldHandshake_withLatch (out : TxOut) (s : State) (l : Latch) :
    foldHandshake out (s.withLatch l) = (foldHandshake out s).withLatch l := by
  have htx := transaction_withLatch 0x00 [] .ack 2 { s.recordOutcome out with seq := true } l
  cases out with
  | ok _ => exact congrArg conclude htx
  | fail _ _ => exact congrArg Prod.fst htx

/-- A completion does not see the latch. -/
theorem completion_withLatch (i : Instr) (p : State × TxOut) (l : Latch) :
    completion i (p.1.withLatch l, p.2) = (completion i p).withLatch l := by
  obtain ⟨s, out⟩ := p
  cases i with
  | setBaudRate rate =>
    cases out with
    | ok _ => exact reconfigureAndVerify_withLatch rate s l
    | fail _ _ => rfl
  | clearScreen => exact foldHandshake_withLatch out s l
  | _ => rfl

/-- Settles O44: the issue writes the latch, and neither the command's own transaction nor its completion sees it. -/
theorem latchIsDiscarded : Obligations.LatchIsDiscarded := by
  intro i s t l h
  obtain ⟨hph, rfl⟩ := exec_next h
  refine ⟨_, exec_of_idle i hph, ?_⟩
  have hissue : State.issue (rawOf i) { s with latch := l } = (s.issue (rawOf i)).withLatch (l.accept (rawOf i)) := rfl
  rw [hissue, ownTransaction_withLatch, completion_withLatch]
  rfl

/-! ## The old contents of FB and RB -/

/-- The state with other contents of FB and RB. -/
def State.withBuffers (s : State) (fb rb : Memory) : State :=
  { s with codec := { s.codec with fb := fb }, reply := { s.reply with rb := rb } }

/-- A read sees nothing of what stood in RB. -/
theorem readReply_withBuffers (o : Byte) (n : Nat) (s : State) (fb rb : Memory) :
    ∃ rb', (s.withBuffers fb rb).readReply o n =
      ((s.readReply o n).1, (s.readReply o n).2.withBuffers fb rb') := by
  unfold State.readReply
  dsimp only [State.withBuffers]
  split
  · exact ⟨rb, rfl⟩
  · exact ⟨_, rfl⟩

/-- What follows a write leaves FB, and of RB it sees nothing: a decoder gets the bytes the read answered (R137). -/
theorem afterWrite_withBuffers (o : Byte) (shape : Shape) (n : Nat) (a : WriteAnswer) (s : State) (fb rb : Memory) :
    ∃ rb', afterWrite o shape n (a, s.withBuffers fb rb) =
      ((afterWrite o shape n (a, s)).1.withBuffers fb rb', (afterWrite o shape n (a, s)).2) := by
  cases a with
  | ioerr => exact ⟨rb, rfl⟩
  | ok =>
    simp only [afterWrite]
    split
    · obtain ⟨rb', hread⟩ := readReply_withBuffers o n (s.settle o) fb rb
      refine ⟨rb', ?_⟩
      rw [show (s.withBuffers fb rb).settle o = (s.settle o).withBuffers fb rb from rfl, hread]
      unfold afterRead
      dsimp only
      split <;> rfl
    · exact ⟨rb, rfl⟩

/-- A transaction sees nothing of what stood in FB and RB: it sends the frame it has encoded (R61, R149). -/
theorem transaction_withBuffers (o : Byte) (p : List Byte) (shape : Shape) (n : Nat) {s : State} {fb : Memory}
    (hs : s.codec.fb.wf = true) (hfb : fb.wf = true) (rb : Memory) :
    ∃ fb' rb', fb'.wf = true ∧
      transaction o p shape n (s.withBuffers fb rb) =
        ((transaction o p shape n s).1.withBuffers fb' rb', (transaction o p shape n s).2) := by
  cases h : frameEncode o p s.codec with
  | none =>
    have h' : frameEncode o p (s.withBuffers fb rb).codec = none := by
      rw [frameEncode_eq] at h ⊢
      split at h
      · exact if_pos ‹_›
      · cases h
    rw [transaction_of_tooLong shape n h, transaction_of_tooLong shape n h']
    exact ⟨fb, rb, hfb, rfl⟩
  | some c =>
    have h' : frameEncode o p (s.withBuffers fb rb).codec =
        some { c with fb := fb.writeBytes 0 (frameBytes o p) } := by
      rw [frameEncode_eq] at h ⊢
      split at h
      · cases h
      · rw [if_neg ‹_›, ← Option.some.inj h]
        rfl
    rw [transaction_of_encoded shape n h, transaction_of_encoded shape n h']
    set u : State := { s.beginTransaction o with codec := c }
    have hframe : (u.withBuffers (fb.writeBytes 0 (frameBytes o p)) rb).codec.frame = u.codec.frame :=
      (frame_of_frameEncode hfb h').trans (frame_of_frameEncode hs h).symm
    have hsend : (u.withBuffers (fb.writeBytes 0 (frameBytes o p)) rb).sendFrame =
        (u.sendFrame.1, u.sendFrame.2.withBuffers (fb.writeBytes 0 (frameBytes o p)) rb) := by
      unfold State.sendFrame
      rw [hframe]
      rfl
    obtain ⟨rb', hafter⟩ := afterWrite_withBuffers o shape n u.sendFrame.1 u.sendFrame.2
      (fb.writeBytes 0 (frameBytes o p)) rb
    exact ⟨_, rb', Memory.wf_writeBytes hfb 0 _, (congrArg (afterWrite o shape n) hsend).trans hafter⟩

/-- A command's own transaction sees nothing of what stood in FB and RB. -/
theorem ownTransaction_withBuffers (i : Instr) {s : State} {fb : Memory} (hs : s.codec.fb.wf = true) (hfb : fb.wf = true)
    (rb : Memory) :
    ∃ fb' rb', fb'.wf = true ∧
      ownTransaction i (s.withBuffers fb rb) = ((ownTransaction i s).1.withBuffers fb' rb', (ownTransaction i s).2) := by
  cases h : i.wellFormed with
  | true =>
    rw [ownTransaction_of_wellFormed h, ownTransaction_of_wellFormed h]
    exact transaction_withBuffers _ _ _ _ hs hfb rb
  | false =>
    rw [ownTransaction_of_illFormed h, ownTransaction_of_illFormed h]
    exact ⟨fb, rb, hfb, rfl⟩

/-- The Handshake of a composite command, recorded or not, sees nothing of what stood in FB and RB (R148). -/
theorem followUp_withBuffers {s : State} {fb : Memory} (hs : s.codec.fb.wf = true) (hfb : fb.wf = true) (rb : Memory) :
    ∃ fb' rb',
      conclude (transaction 0x00 [] .ack 2 (s.withBuffers fb rb)) =
          (conclude (transaction 0x00 [] .ack 2 s)).withBuffers fb' rb' ∧
        (transaction 0x00 [] .ack 2 (s.withBuffers fb rb)).1 = (transaction 0x00 [] .ack 2 s).1.withBuffers fb' rb' := by
  obtain ⟨fb', rb', -, htx⟩ := transaction_withBuffers 0x00 [] .ack 2 hs hfb rb
  exact ⟨fb', rb', congrArg conclude htx, congrArg Prod.fst htx⟩

/-- A completion sees nothing of what stood in FB and RB. -/
theorem completion_withBuffers (i : Instr) {p : State × TxOut} {fb : Memory} (hp : p.1.codec.fb.wf = true)
    (hfb : fb.wf = true) (rb : Memory) :
    ∃ fb' rb', completion i (p.1.withBuffers fb rb, p.2) = (completion i p).withBuffers fb' rb' := by
  obtain ⟨s, out⟩ := p
  cases i with
  | setBaudRate rate =>
    obtain ⟨fb', rb', hverify, -⟩ :=
      followUp_withBuffers (s := { s with env := s.env.configureBaudRate rate, seq := true }) hp hfb rb
    cases out with
    | ok _ => exact ⟨fb', rb', hverify⟩
    | fail _ _ => exact ⟨fb, rb, rfl⟩
  | clearScreen =>
    obtain ⟨fb', rb', hrecorded, hkept⟩ :=
      followUp_withBuffers (s := { s.recordOutcome out with seq := true }) hp hfb rb
    cases out with
    | ok _ => exact ⟨fb', rb', hrecorded⟩
    | fail _ _ => exact ⟨fb', rb', hkept⟩
  | _ => exact ⟨fb, rb, rfl⟩

/-- Settles O43: neither the command's own transaction nor its completion sees what stood in FB and RB. -/
theorem buffersAreFresh : Obligations.BuffersAreFresh := by
  intro i s t fb rb hs hfb h
  obtain ⟨hph, rfl⟩ := exec_next h
  refine ⟨_, exec_of_idle i hph, ?_⟩
  have hissue : State.issue (rawOf i) { s with codec := { s.codec with fb := fb }, reply := { s.reply with rb := rb } } =
      (s.issue (rawOf i)).withBuffers fb rb := rfl
  obtain ⟨fb', rb', hfb', hown⟩ := ownTransaction_withBuffers i (s := s.issue (rawOf i)) hs hfb rb
  obtain ⟨hfresh, -⟩ := (ownTransaction_codec i (s.issue (rawOf i))).fb hs
  obtain ⟨fb'', rb'', hcompletion⟩ := completion_withBuffers i hfresh hfb' rb'
  rw [hissue, hown, hcompletion]
  rfl

end Sys2Proof.Machine
end

section
/-! PROOFS. The phase register and the port: where each phase goes, where PH_ENCODE stops, what FrameEncode leaves, what a reset
leaves, and the step that runs a table word. -/

namespace Sys2Proof.Machine

/-! ## The encoder -/

/-- A frame put into FB stands there, with its checksum at its last byte, and FB above it is as before (R28, R29). -/
theorem Memory.writeBytes_frameBytes {m : Memory} (h : m.wf = true) (op : Byte) (p : List Byte) :
    (m.writeBytes 0 (frameBytes op p)).readBytes 0 (9 + p.length) = frameBytes op p ∧
      (∀ a, 9 + p.length ≤ a → (m.writeBytes 0 (frameBytes op p)).read a = m.read a) ∧
      (m.writeBytes 0 (frameBytes op p)).read (8 + p.length) = xor8 (frameBody op p) := by
  have hlen := frameBytes_length op p
  refine ⟨?_, fun a ha => Memory.read_writeBytes_after h _ (by omega), ?_⟩
  · rw [← hlen]
    exact Memory.readBytes_writeBytes h 0 _
  · rw [frameBytes, Memory.writeBytes_append, frameBody_length, Nat.zero_add]
    exact (Memory.read_write (Memory.wf_writeBytes h 0 _) _ _ _).trans (if_pos rfl)

/-- Settles O21: the closed form of `FrameEncode`, with the bytes read back from FB. -/
theorem encoderInPlace : Obligations.EncoderInPlace := by
  intro op p c hwf
  obtain ⟨hframe, habove, hck⟩ := Memory.writeBytes_frameBytes hwf op p
  refine ⟨fun hlong => by rw [frameEncode_eq, if_pos hlong], fun hfits => ?_⟩
  refine ⟨_, (frameEncode_eq op p c).trans (if_neg (by omega)), ?_, hframe, habove, ?_, hck.symm, ?_⟩
  · rw [BitVec.toNat_ofNat]
    omega
  · rw [← frameBody_length op p, frameBytes, List.take_left]
  · rw [BitVec.toNat_ofNat]
    omega

/-! ## The stop on an operand without a value -/

/-- PH_ENCODE of a command's own transaction stops where a register of its format, or the read size of a GetBaudRate, holds no
value (R25). -/
theorem phaseStep_of_unwritten {s : State} {o : Opcode} (hph : s.ph = .encode) (hseq : s.seq = false)
    (ho : Opcode.ofByte s.latch.op = some o)
    (h : s.latch.formatWritten o.format = false ∨ o = .getBaudRate ∧ s.latch.written.nread = false) :
    phaseStep s = .fault .operandNotWritten := by
  have hw : s.latch.operandsWritten = false := by
    rw [Latch.operandsWritten, ho]
    obtain hformat | ⟨rfl, hnread⟩ := h
    · simp [hformat]
    · simp [hnread]
  have hguard : phaseGuard s = some .operandNotWritten := by
    rw [phaseGuard, hph, hseq, hw]
    rfl
  rw [phaseStep, hguard]

/-- A string command reads SLEN (R23, R100). -/
theorem formatWritten_ps_of_slen {l : Latch} (h : l.written.slen = false) : l.formatWritten .ps = false := by
  rw [Latch.formatWritten, h]
  rfl

/-- A string command whose string fits reads its characters, and without a 0x00 among them its coordinates (R108, log
entry 9). -/
theorem formatWritten_ps {l : Latch} (hfits : l.slen.toNat ≤ 1019)
    (h : l.written.str < l.slen.toNat ∨ 0x00 ∉ l.text ∧ (l.written.x0 && l.written.x1) = false) :
    l.formatWritten .ps = false := by
  have hstring : stringFits l.slen.toNat = true := decide_eq_true (by rw [Config.maxFrame_eq]; omega)
  obtain hchars | ⟨hclean, hcoords⟩ := h
  · simp [Latch.formatWritten, hstring, hchars]
  · have htext : stringClean l.text = true := by
      rw [stringClean, List.all_eq_true]
      exact fun b hb => bne_iff_ne.mpr fun hzero => hclean (hzero ▸ hb)
    simp only [Latch.formatWritten, hstring, htext, hcoords, Bool.not_true, Bool.false_or, Bool.and_false]

/-- Settles O12: in each of the cases the format's registers are not all written, or the read size is not. -/
theorem unwrittenOperandStops : Obligations.UnwrittenOperandStops := by
  intro s o hph hseq ho h
  refine phaseStep_of_unwritten hph hseq ho ?_
  obtain ⟨d, hf, hw⟩ | ⟨d, d', hf, hw⟩ | ⟨hf, hw⟩ | ⟨hf, hw⟩ | ⟨hf, hw⟩ | ⟨hf, hw⟩ | ⟨hf, hw⟩ | ⟨hf, hw⟩ |
    ⟨hf, hfits, hstr⟩ | ⟨hf, hfits, hclean, hw⟩ | hnread := h
  exacts [.inl (hf ▸ hw), .inl (hf ▸ hw), .inl (hf ▸ hw), .inl (hf ▸ hw), .inl (hf ▸ hw), .inl (hf ▸ hw),
    .inl (hf ▸ hw), .inl (hf ▸ formatWritten_ps_of_slen hw), .inl (hf ▸ formatWritten_ps hfits (.inl hstr)),
    .inl (hf ▸ formatWritten_ps hfits (.inr ⟨hclean, hw⟩)), .inr hnread]

/-! ## The walk of the phases -/

/-- The end of a transaction goes where the latch and SEQ say (R138, R148). -/
theorem endsAt_endTransaction {s u : State} (hlatch : u.latch = s.latch) (hseq : u.seq = s.seq) (out : TxOut) :
    s.endsAt (u.endTransaction out) := by
  unfold State.endsAt
  rw [State.endTransaction_ph, State.endTransaction_seq, hlatch, hseq]
  split
  · rename_i h
    exact ⟨rfl, by rw [h.1]; simp⟩
  · rfl

/-- PH_ENCODE goes on to PH_WRITE, or ends the transaction with EncodingError, which is then recorded: the Handshake of a
ClearScreen has no payload and is always encoded (R133, R148). -/
theorem phEncode_walk (s : State) :
    (phEncode s).ph = .write ∨ s.endsAt (phEncode s) ∧ (phEncode s).result.err = .encodingError := by
  have hfail : s.seq = false →
      s.endsAt (s.raiseError .encodingError {}) ∧ (s.raiseError .encodingError {}).result.err = .encodingError := by
    intro hseq
    refine ⟨endsAt_endTransaction rfl rfl _, ?_⟩
    rw [State.raiseError, State.endTransaction_result, State.keepsFirst, hseq]
    rfl
  cases hseq : s.seq with
  | true =>
    obtain ⟨c, hc⟩ := frameEncode_of_fits s.txOpcode s.codec (p := []) (of_decide_eq_true rfl)
    rw [phEncode, State.txPayload, hseq, if_pos rfl]
    dsimp only
    rw [hc]
    exact .inl rfl
  | false =>
    unfold phEncode
    split
    · exact .inr (hfail hseq)
    · split
      · exact .inr (hfail hseq)
      · exact .inl rfl

/-- PH_WRITE goes where the Transport's answer and the opcode send it (R134). -/
theorem phWrite_walk (s : State) :
    match s.env.nextWrite.1 with
    | .ioerr => s.endsAt (phWrite s)
    | .ok =>
      if s.latch.op = 0x01 ∧ s.seq = false then (phWrite s).ph = .reconf
      else if s.txReads then (phWrite s).ph = .settle
      else s.endsAt (phWrite s) := by
  have hanswer : s.sendFrame.1 = s.env.nextWrite.1 := rfl
  unfold phWrite
  dsimp only
  rw [hanswer]
  cases s.env.nextWrite.1 with
  | ioerr => exact endsAt_endTransaction rfl rfl (.fail .transportError {})
  | ok =>
    dsimp only
    by_cases hbaud : s.latch.op = 0x01 ∧ s.seq = false
    · rw [if_pos hbaud, if_pos hbaud.symm]
    · have hbaud' : ¬ (s.seq = false ∧ s.latch.op = 0x01) := fun h => hbaud h.symm
      rw [if_neg hbaud, if_neg hbaud']
      by_cases hreads : s.txReads = true
      · rw [if_pos hreads, if_pos hreads]
      · rw [if_neg hreads, if_neg hreads]
        exact endsAt_endTransaction rfl rfl noReply

/-- PH_READ goes where the Transport's answer sends it (R136). -/
theorem phRead_walk (s : State) :
    match s.env.nextRead.1 with
    | .ioerr _ => s.endsAt (phRead s)
    | .arrived _ _ _ => (phRead s).ph = .decode := by
  unfold phRead State.readReply Env.readExact
  dsimp only
  cases s.env.nextRead.1 with
  | ioerr left => exact endsAt_endTransaction rfl rfl (.fail .transportError {})
  | arrived bs k lost => rfl

/-- Settles O13: the walk of each phase. -/
theorem phaseWalk : Obligations.PhaseWalk := by
  intro s t hstep
  obtain ⟨-, rfl⟩ := phaseStep_next hstep
  unfold phase
  cases hph : s.ph with
  | idle => rfl
  | discard => rfl
  | encode => exact phEncode_walk s
  | write => exact phWrite_walk s
  | settle => rfl
  | read => exact phRead_walk s
  | decode => exact endsAt_endTransaction rfl rfl _
  | reconf => exact ⟨rfl, rfl⟩
  | done => exact ⟨rfl, rfl⟩

/-! ## Reset, the port and the codes -/

/-- Settles O1: the registers of the reset state, by evaluation. -/
theorem resetState : Obligations.ResetState := ⟨rfl, rfl, rfl, rfl, rfl, rfl, rfl⟩

/-- Settles O6: a reset is taken in any phase, and keeps the surroundings without that move. -/
theorem resetLeavesTransport : Obligations.ResetLeavesTransport := by
  intro s ms h
  unfold step State.popMove
  rw [h]
  rfl

/-- A word that decodes becomes the issue of its command (log entry 6). -/
theorem fetchMove_of_decoded {nbits w : Nat} {i : Instr} (h : decodeTableWord nbits w = some i) :
    fetchMove nbits w = some (.issue i) := by
  unfold decodeTableWord at h
  unfold fetchMove
  cases hframe : frameDecode (tableFrame nbits w) with
  | ok j =>
    rw [hframe] at h
    exact congrArg (fun i => some (HostMove.issue i)) (Option.some.inj h)
  | error e =>
    rw [hframe] at h
    cases h

/-- A word that decodes puts the issue of its command before the host's moves, at PH_IDLE (log entry 6). -/
theorem withFetchWord_of_decoded (s : State) {nbits w : Nat} {i : Instr} (h : decodeTableWord nbits w = some i) :
    s.withFetchWord nbits w = { s with ph := .idle, env := { s.env with moves := .issue i :: s.env.moves } } := by
  unfold State.withFetchWord
  simp only [fetchMove_of_decoded h]

/-- An issue at PH_IDLE is taken and its command run (R130). -/
theorem step_of_issue {s : State} {i : Instr} {ms : List HostMove} (hph : s.ph = .idle) (hm : s.env.moves = .issue i :: ms) :
    step s = exec i { s with env := { s.env with moves := ms } } := by
  unfold step State.popMove
  rw [hm]
  exact if_pos hph

/-- Settles O8: the word's command is the host's next move, and the port is ready. -/
theorem stepRunsDecodedWord : Obligations.StepRunsDecodedWord := by
  intro s nbits w i h
  rw [withFetchWord_of_decoded s h]
  exact step_of_issue rfl rfl

/-- Settles O51: the codes, name by name. -/
theorem registerCodes : Obligations.RegisterCodes := ⟨rfl, rfl, rfl, rfl⟩

end Sys2Proof.Machine
end

section
/-! PROOFS. What the block does to its surroundings: a step makes Transport calls one after another, and each of them is only
added to the record (R69, R285). And a reply taken for that of another command (R75, R143). -/

namespace Sys2Proof.Machine

/-! ## The surroundings after calls of the Transport -/

/-- One thing the block does to its surroundings: a call of the Transport (R16), the settle wait, or, after a write, the free
value that IDX then holds (log entry 3). -/
inductive Env.Call (e : Env) : Env → Prop where
  | discard : Env.Call e e.discardBuffered
  | write (frame : List Byte) : Env.Call e { (e.write frame).2 with draws := (e.write frame).2.draws + 1 }
  | settle (o : Byte) : Env.Call e (e.settle o)
  | read (n : Nat) (o : Byte) : Env.Call e (e.readExact n o).2
  | configureBaudRate (rate : Word32) : Env.Call e (e.configureBaudRate rate)

/-- The surroundings after any number of calls. -/
def Env.Calls : Env → Env → Prop := Relation.ReflTransGen Env.Call

/-- No call at all. -/
theorem Env.Calls.refl {e : Env} : e.Calls e := Relation.ReflTransGen.refl

/-- One call. -/
theorem Env.Call.calls {e e' : Env} (h : e.Call e') : e.Calls e' := Relation.ReflTransGen.single h

/-- Calls follow calls. -/
theorem Env.Calls.trans {e e' e'' : Env} (h : e.Calls e') (h' : e'.Calls e'') : e.Calls e'' :=
  Relation.ReflTransGen.trans h h'

/-- A write is recorded, before the calls already made (log entry 18). -/
@[simp] theorem Env.write_trace (e : Env) (frame : List Byte) :
    (e.write frame).2.trace = .write frame (e.write frame).1 :: e.trace := by
  unfold Env.write Env.nextWrite
  cases e.writeAnswers <;> rfl

/-- A read is recorded with the bytes it handed over, before the calls already made (log entry 18). -/
@[simp] theorem Env.readExact_trace (e : Env) (n : Nat) (o : Byte) :
    (e.readExact n o).2.trace = .read n (Config.tTimeout o) (e.readExact n o).1 :: e.trace := by
  have hnext : e.nextRead.2.trace = e.trace := by
    unfold Env.nextRead
    split <;> rfl
  unfold Env.readExact
  dsimp only
  split <;> exact congrArg _ hnext

/-- A call adds one event to the record. -/
theorem Env.Call.trace {e e' : Env} (h : e.Call e') : ∃ event, e'.trace = event :: e.trace := by
  cases h with
  | discard | settle _ | configureBaudRate _ => exact ⟨_, rfl⟩
  | write frame => exact ⟨_, e.write_trace frame⟩
  | read n o => exact ⟨_, e.readExact_trace n o⟩

/-- After calls the old record stands at the end of the new one. -/
theorem Env.Calls.trace_suffix {e e' : Env} (h : e.Calls e') : e.trace <:+ e'.trace := by
  induction h with
  | refl => exact List.suffix_rfl
  | tail _ hcall ih =>
    obtain ⟨event, hevent⟩ := hcall.trace
    exact hevent ▸ ih.trans (List.suffix_cons event _)

/-! ## What makes only calls -/

/-- A reply is read by one call (R136). -/
@[simp] theorem State.readReply_env (s : State) (o : Byte) (n : Nat) :
    (s.readReply o n).2.env = (s.env.readExact n o).2 := by
  unfold State.readReply
  dsimp only
  split <;> rfl

/-- The decode of a reply makes no call (R137). -/
@[simp] theorem afterRead_env (o : Byte) (shape : Shape) (q : Option (List Byte) × State) :
    (afterRead o shape q).1.env = q.2.env := by
  unfold afterRead
  split <;> rfl

/-- A frame that goes out is one call (R72, R134). -/
theorem State.sendFrame_call (s : State) : s.env.Call s.sendFrame.2.env := .write s.codec.frame

/-- What follows a write is nothing, or the settle wait and the read (R134 to R137). -/
theorem afterWrite_calls (o : Byte) (shape : Shape) (n : Nat) (q : WriteAnswer × State) :
    q.2.env.Calls (afterWrite o shape n q).1.env := by
  unfold afterWrite
  split
  · exact .refl
  · split
    · rw [afterRead_env, State.readReply_env]
      exact (Env.Call.settle o).calls.trans (Env.Call.read n o).calls
    · exact .refl

/-- A failed encode makes one call, the discard (R132, R231). -/
theorem encodingFailure_calls (o : Byte) (s : State) : s.env.Calls (encodingFailure o s).1.env := Env.Call.discard.calls

/-- A transaction makes only calls: the discard, and with an encoded frame the write and what follows it (R73, R149). -/
theorem transaction_calls (o : Byte) (p : List Byte) (shape : Shape) (n : Nat) (s : State) :
    s.env.Calls (transaction o p shape n s).1.env := by
  cases h : frameEncode o p s.codec with
  | none =>
    rw [transaction_of_tooLong shape n h]
    exact encodingFailure_calls o s
  | some c =>
    rw [transaction_of_encoded shape n h]
    have hdiscard : s.env.Calls s.env.discardBuffered := Env.Call.discard.calls
    have hwrite := State.sendFrame_call { s.beginTransaction o with codec := c }
    exact (hdiscard.trans hwrite.calls).trans (afterWrite_calls o shape n _)

/-- A command's own transaction makes only calls. -/
theorem ownTransaction_calls (i : Instr) (s : State) : s.env.Calls (ownTransaction i s).1.env := by
  cases h : i.wellFormed with
  | true =>
    rw [ownTransaction_of_wellFormed h]
    exact transaction_calls _ _ _ _ s
  | false =>
    rw [ownTransaction_of_illFormed h]
    exact encodingFailure_calls _ s

/-- A completion makes only calls: none, or those of a Handshake, after a SetBaudRate behind the new line rate (R148). -/
theorem completion_calls (i : Instr) (p : State × TxOut) : p.1.env.Calls (completion i p).env := by
  obtain ⟨rate, -, hc⟩ | ⟨-, hc⟩ | ⟨-, hc⟩ := completion_cases i p
  · rw [hc]
    have hrate : p.1.env.Calls (p.1.env.configureBaudRate rate) := (Env.Call.configureBaudRate rate).calls
    exact hrate.trans
      (transaction_calls 0x00 [] .ack 2 { p.1 with env := p.1.env.configureBaudRate rate, seq := true })
  · rw [hc]
    have hfold := transaction_calls 0x00 [] .ack 2 { p.1.recordOutcome p.2 with seq := true }
    unfold foldHandshake
    dsimp only
    split <;> exact hfold
  · rw [hc]
    exact .refl

/-- A command as a value makes only calls (R149). -/
theorem exec_calls {i : Instr} {s t : State} (h : exec i s = .next t) : s.env.Calls t.env := by
  obtain ⟨-, rfl⟩ := exec_next h
  exact (ownTransaction_calls i (s.issue (rawOf i))).trans (completion_calls i _)

/-- PH_ENCODE makes no call (R133). -/
@[simp] theorem phEncode_env (s : State) : (phEncode s).env = s.env := by
  unfold phEncode
  split
  · rfl
  · split <;> rfl

/-- PH_WRITE sends the frame and does nothing else to the surroundings (R134). -/
@[simp] theorem phWrite_env (s : State) : (phWrite s).env = s.sendFrame.2.env := by
  unfold phWrite
  dsimp only
  split
  · rfl
  · split
    · rfl
    · split <;> rfl

/-- PH_READ reads and does nothing else to the surroundings (R136). -/
@[simp] theorem phRead_env (s : State) : (phRead s).env = (s.env.readExact s.txCount s.txOpcode).2 := by
  rw [← State.readReply_env]
  unfold phRead
  dsimp only
  split <;> rfl

/-- A phase makes only calls (R131). -/
theorem phase_calls (s : State) : s.env.Calls (phase s).env := by
  unfold phase
  cases s.ph with
  | idle | decode | done => exact .refl
  | discard => exact Env.Call.discard.calls
  | encode => exact phEncode_env s ▸ .refl
  | write => exact phWrite_env s ▸ s.sendFrame_call.calls
  | settle => exact (Env.Call.settle s.txOpcode).calls
  | read => exact phRead_env s ▸ (Env.Call.read s.txCount s.txOpcode).calls
  | reconf => exact (Env.Call.configureBaudRate s.latch.rate).calls

/-- A phase step makes only calls. -/
theorem phaseStep_calls {s t : State} (h : phaseStep s = .next t) : s.env.Calls t.env := by
  obtain ⟨-, rfl⟩ := phaseStep_next h
  exact phase_calls s

/-- What a step does to the surroundings: it makes calls, with or without taking the host's next move, or that move brings bytes
(R130, R236, R286). -/
theorem step_calls {s t : State} (h : step s = .next t) :
    s.env.Calls t.env ∨ s.popMove.env.Calls t.env ∨ ∃ bs, t.env = (s.popMove.arrive bs).env := by
  obtain hs | ⟨bs, hs⟩ | ⟨i, -, hs⟩ | ⟨c, -, hs⟩ | hs | hs := step_cases s <;> rw [hs] at h
  · exact .inr (.inl (Host.Outcome.next.inj h ▸ .refl))
  · exact .inr (.inr ⟨bs, Host.Outcome.next.inj h ▸ rfl⟩)
  · exact .inr (.inl (exec_calls h))
  · exact .inr (.inl (Host.Outcome.next.inj h ▸ .refl))
  · exact .inr (.inl (phaseStep_calls h))
  · exact .inl (phaseStep_calls h)

/-- Settles O45: a step makes calls, and calls leave the old record at the end of the new one; a move taken is no call. -/
theorem callsAreOnlyAdded : Obligations.CallsAreOnlyAdded := by
  intro s t hstep
  have hsuffix : s.env.trace <:+ t.env.trace := by
    obtain h | h | ⟨bs, h⟩ := step_calls hstep
    · exact h.trace_suffix
    · exact h.trace_suffix
    · exact h ▸ List.suffix_rfl
  exact hsuffix.imp fun _ h => h.symm

/-! ## A late reply -/

/-- A block at PH_IDLE before two commands. The acknowledgement of the first arrives in time; in front of the reply to the
second, the pair 03 00, another acknowledgement arrives late, during the read (R75, log entry 17). -/
def lateReply : State :=
  { State.reset with
    env :=
      { State.reset.env with
        writeAnswers := [.ok, .ok]
        readAnswers := [.arrived [0x4F, 0x4B] 2, .arrived [0x4F, 0x4B, 0x03, 0x00] 2] } }

/-- Settles O50: from `lateReply` the setter is acknowledged and the query takes the late 4F 4B for its pair. -/
theorem lateReplyIsTaken : Obligations.LateReplyIsTaken :=
  ⟨lateReply, _, _, by decide, rfl, rfl, rfl, rfl, rfl, rfl, rfl, rfl, rfl, rfl⟩

end Sys2Proof.Machine
end

section
/-! PROOFS. The reference decoder (R110): what it accepts, field by field, and the payload formats read back; so encode and
decode are inverse to each other (R111). -/

namespace Sys2Proof

/-! ## The reference decoder on the parts of a frame -/

/-- A sequence of at least nine bytes in the fields of the one frame format (R90). -/
theorem exists_fields_of_length {b : List Byte} (h : 9 ≤ b.length) :
    ∃ (h0 h1 h2 op : Byte) (p t : List Byte) (ck : Byte),
      t.length = 4 ∧ b = [h0, h1, h2, op] ++ p ++ t ++ [ck] := by
  match b, h with
  | h0 :: h1 :: h2 :: op :: rest, h =>
    obtain rfl | ⟨init, ck, rfl⟩ := rest.eq_nil_or_concat'
    · exact absurd h (by simp)
    · simp only [List.length_cons, List.length_append, List.length_nil] at h
      refine ⟨h0, h1, h2, op, init.take (init.length - 4), init.drop (init.length - 4), ck, ?_, by simp⟩
      rw [List.length_drop]
      omega

/-- A check that does not fail. -/
theorem ite_error_eq_ok_iff {ε α : Type} {c : Prop} [Decidable c] {e : ε} {x : Except ε α} {a : α} :
    (if c then .error e else x) = .ok a ↔ ¬ c ∧ x = .ok a := by
  by_cases hc : c <;> simp [hc]

/-- What the decoder checks, field by field, before it reads the payload (R110). -/
theorem decode_fields_eq_ok_iff {h0 h1 h2 op ck : Byte} {p t : List Byte} {i : Instr} (ht : t.length = 4) :
    decode ([h0, h1, h2, op] ++ p ++ t ++ [ck]) = .ok i ↔
      h0 = Config.header ∧ (unbe16 h1 h2).toNat = 9 + p.length ∧ 9 + p.length ≤ 1033 ∧ t = Config.trailer ∧
        xor8 ([h0, h1, h2, op] ++ p ++ t) = ck ∧ ∃ o, Opcode.ofByte op = some o ∧ readPayload p o = .ok i := by
  have hbody : ([h0, h1, h2, op] ++ p ++ t).length = 8 + p.length := by simp [ht]; omega
  have hlen : ([h0, h1, h2, op] ++ p ++ t ++ [ck]).length = 9 + p.length := by
    rw [List.length_append, hbody, List.length_singleton]
    omega
  have htrailer : (([h0, h1, h2, op] ++ p ++ t ++ [ck]).drop (9 + p.length - 5)).take 4 = t := by
    rw [List.append_assoc, List.drop_left' (by simp; omega), List.take_left' ht]
  have htake : ([h0, h1, h2, op] ++ p ++ t ++ [ck]).take (9 + p.length - 1) = [h0, h1, h2, op] ++ p ++ t :=
    List.take_left' (by omega)
  have hck : ([h0, h1, h2, op] ++ p ++ t ++ [ck]).getD (9 + p.length - 1) 0 = ck := by
    rw [List.getD_append_right _ _ _ _ (by omega), hbody, show 9 + p.length - 1 - (8 + p.length) = 0 by omega]
    rfl
  have hpayload : (([h0, h1, h2, op] ++ p ++ t ++ [ck]).drop 4).take (9 + p.length - 9) = p := by
    simp
  unfold decode
  rw [hlen, Config.overhead_eq, Config.maxFrame_eq, htrailer, htake, hck, hpayload]
  simp only [ite_error_eq_ok_iff, not_not, Nat.not_lt, Nat.le_add_right, true_and, List.cons_append, List.nil_append,
    List.getD_cons_zero, List.getD_cons_succ]
  cases Opcode.ofByte op <;> simp

/-- A frame in its fields, whatever two bytes spell its length (R90, R91). -/
theorem frameBytes_of_length (op : Byte) {p : List Byte} {h1 h2 : Byte} (h : (unbe16 h1 h2).toNat = 9 + p.length) :
    frameBytes op p =
      [Config.header, h1, h2, op] ++ p ++ Config.trailer ++ [xor8 ([Config.header, h1, h2, op] ++ p ++ Config.trailer)] := by
  have hlen : BitVec.ofNat 16 (Config.overhead + p.length) = unbe16 h1 h2 := by
    rw [Config.overhead_eq, ← h, BitVec.ofNat_toNat, BitVec.setWidth_eq]
  rw [frameBytes, frameBody, hlen, be16_unbe16]
  rfl

/-- A frame that fits has two bytes that spell its length (R91). -/
theorem exists_length_bytes {p : List Byte} (h : 9 + p.length ≤ 1033) :
    ∃ h1 h2 : Byte, (unbe16 h1 h2).toNat = 9 + p.length := by
  refine ⟨_, _, (congrArg BitVec.toNat (unbe16_be16 (BitVec.ofNat 16 (9 + p.length)))).trans ?_⟩
  rw [BitVec.toNat_ofNat]
  omega

/-- The decoder, all its checks but the last, accepts exactly the frames of an opcode and a payload that its format reads
(R110). -/
theorem decode_eq_ok_iff {b : List Byte} {i : Instr} :
    decode b = .ok i ↔
      ∃ (o : Opcode) (p : List Byte), b = frameBytes o.byte p ∧ 9 + p.length ≤ 1033 ∧ readPayload p o = .ok i := by
  constructor
  · intro h
    have hlen : 9 ≤ b.length := by
      unfold decode at h
      rw [ite_error_eq_ok_iff] at h
      exact Nat.not_lt.mp h.1
    obtain ⟨h0, h1, h2, op, p, t, ck, ht, rfl⟩ := exists_fields_of_length hlen
    obtain ⟨rfl, hlength, hfits, rfl, rfl, o, ho, hread⟩ := (decode_fields_eq_ok_iff ht).mp h
    exact ⟨o, p, by rw [Machine.byte_of_ofByte ho, frameBytes_of_length op hlength], hfits, hread⟩
  · rintro ⟨o, p, rfl, hfits, hread⟩
    obtain ⟨h1, h2, hlength⟩ := exists_length_bytes hfits
    rw [frameBytes_of_length o.byte hlength]
    exact (decode_fields_eq_ok_iff rfl).mpr
      ⟨rfl, hlength, hfits, rfl, rfl, o, Laws.FrameShape.ofByte_byte o, hread⟩

/-- The reference decoder adds the check of the operand domains (R110). -/
theorem frameDecode_eq_ok_iff {b : List Byte} {i : Instr} :
    frameDecode b = .ok i ↔ decode b = .ok i ∧ i.operandsInDomain = true := by
  unfold frameDecode
  cases decode b with
  | error e => simp
  | ok j =>
    by_cases hj : j.operandsInDomain = true
    · simp only [if_pos hj, Except.ok.injEq]
      exact ⟨fun h => ⟨h, h ▸ hj⟩, And.left⟩
    · simp only [if_neg hj, reduceCtorEq, false_iff, Except.ok.injEq]
      rintro ⟨rfl, h⟩
      exact hj h

/-! ## The payload formats read back -/

/-- Format P0 reads the empty payload only. -/
theorem readP0_eq_ok_iff {i j : Instr} {p : List Byte} : readP0 i p = .ok j ↔ p = [] ∧ i = j := by
  cases p <;> simp [readP0]

/-- A byte taken as an operand register has itself as its low byte (R8). -/
@[simp] theorem lo8_setWidth (b : Byte) : lo8 (b.setWidth 16) = b := by
  apply BitVec.eq_of_toNat_eq
  simp only [lo8, BitVec.extractLsb'_toNat, BitVec.toNat_setWidth, Nat.shiftRight_zero]
  omega

/-- Format PE1 reads the payload of an operand that is a byte. -/
theorem readE1_eq_ok_iff {f : Word16 → Instr} {j : Instr} {p : List Byte} :
    readE1 f p = .ok j ↔ ∃ a, (lo8 a).setWidth 16 = a ∧ p = payloadE1 a ∧ f a = j := by
  constructor
  · intro h
    unfold readE1 at h
    split at h
    · exact ⟨_, by simp, by simp [payloadE1], Except.ok.inj h⟩
    · cases h
  · rintro ⟨a, ha, rfl, rfl⟩
    simp [readE1, payloadE1, ha]

/-- Format PE2 reads the payload of two operands that are bytes. -/
theorem readE2_eq_ok_iff {f : Word16 → Word16 → Instr} {j : Instr} {p : List Byte} :
    readE2 f p = .ok j ↔
      ∃ a b, (lo8 a).setWidth 16 = a ∧ (lo8 b).setWidth 16 = b ∧ p = payloadE2 a b ∧ f a b = j := by
  constructor
  · intro h
    unfold readE2 at h
    split at h
    · exact ⟨_, _, by simp, by simp, by simp [payloadE2], Except.ok.inj h⟩
    · cases h
  · rintro ⟨a, b, ha, hb, rfl, rfl⟩
    simp [readE2, payloadE2, ha, hb]

/-- The bytes of a value put together from four bytes are these four bytes. -/
theorem be32_unbe32 (a b c d : Byte) : be32 (unbe32 a b c d) = [a, b, c, d] := by
  have hd : (unbe32 a b c d).extractLsb' 0 8 = d := BitVec.extractLsb'_append_eq_right
  have hc : (unbe32 a b c d).extractLsb' 8 8 = c :=
    (BitVec.extractLsb'_append_eq_of_le (le_refl 8)).trans BitVec.extractLsb'_append_eq_right
  have hb : (unbe32 a b c d).extractLsb' 16 8 = b :=
    (BitVec.extractLsb'_append_eq_of_le (by omega)).trans
      ((BitVec.extractLsb'_append_eq_of_le (le_refl 8)).trans BitVec.extractLsb'_append_eq_right)
  have ha : (unbe32 a b c d).extractLsb' 24 8 = a :=
    (BitVec.extractLsb'_append_eq_of_le (by omega)).trans
      ((BitVec.extractLsb'_append_eq_of_le (by omega)).trans BitVec.extractLsb'_append_eq_left)
  rw [be32, ha, hb, hc, hd]

/-- Format PR reads the payload of any rate. -/
theorem readR_eq_ok_iff {f : Word32 → Instr} {j : Instr} {p : List Byte} :
    readR f p = .ok j ↔ ∃ r, p = payloadR r ∧ f r = j := by
  constructor
  · intro h
    unfold readR at h
    split at h
    · exact ⟨_, (be32_unbe32 _ _ _ _).symm, Except.ok.inj h⟩
    · cases h
  · rintro ⟨r, rfl, rfl⟩
    simp [readR, payloadR, be32]

/-- Format PC2 reads the payload of any two operands. -/
theorem readC2_eq_ok_iff {f : Word16 → Word16 → Instr} {j : Instr} {p : List Byte} :
    readC2 f p = .ok j ↔ ∃ a b, p = payloadC2 a b ∧ f a b = j := by
  constructor
  · intro h
    unfold readC2 at h
    split at h
    · exact ⟨_, _, by simp [payloadC2], Except.ok.inj h⟩
    · cases h
  · rintro ⟨a, b, rfl, rfl⟩
    simp [readC2, payloadC2, be16]

/-- Format PC3 reads the payload of any three operands. -/
theorem readC3_eq_ok_iff {f : Word16 → Word16 → Word16 → Instr} {j : Instr} {p : List Byte} :
    readC3 f p = .ok j ↔ ∃ a b c, p = payloadC3 a b c ∧ f a b c = j := by
  constructor
  · intro h
    unfold readC3 at h
    split at h
    · exact ⟨_, _, _, by simp [payloadC3], Except.ok.inj h⟩
    · cases h
  · rintro ⟨a, b, c, rfl, rfl⟩
    simp [readC3, payloadC3, be16]

/-- Format PC4 reads the payload of any four operands. -/
theorem readC4_eq_ok_iff {f : Word16 → Word16 → Word16 → Word16 → Instr} {j : Instr} {p : List Byte} :
    readC4 f p = .ok j ↔ ∃ a b c d, p = payloadC4 a b c d ∧ f a b c d = j := by
  constructor
  · intro h
    unfold readC4 at h
    split at h
    · exact ⟨_, _, _, _, by simp [payloadC4], Except.ok.inj h⟩
    · cases h
  · rintro ⟨a, b, c, d, rfl, rfl⟩
    simp [readC4, payloadC4, be16]

/-- Format PC6 reads the payload of any six operands. -/
theorem readC6_eq_ok_iff {f : Word16 → Word16 → Word16 → Word16 → Word16 → Word16 → Instr} {j : Instr}
    {p : List Byte} :
    readC6 f p = .ok j ↔ ∃ a b c d e g, p = payloadC6 a b c d e g ∧ f a b c d e g = j := by
  constructor
  · intro h
    unfold readC6 at h
    split at h
    · exact ⟨_, _, _, _, _, _, by simp [payloadC6], Except.ok.inj h⟩
    · cases h
  · rintro ⟨a, b, c, d, e, g, rfl, rfl⟩
    simp [readC6, payloadC6, be16]

/-- Format PS wants a 0x00 as the last byte and none before it (R103, R110). -/
theorem readS_concat_eq_ok_iff {f : Word16 → Word16 → List Byte → Instr} {j : Instr} {a b c d z : Byte}
    {str : List Byte} :
    readS f ([a, b, c, d] ++ (str ++ [z])) = .ok j ↔
      z = 0x00 ∧ stringClean str = true ∧ f (unbe16 a b) (unbe16 c d) str = j := by
  have hread : readS f ([a, b, c, d] ++ (str ++ [z])) =
      if (str ++ [z]).getLastD 0xFF ≠ 0x00 then .error .badString
      else if !stringClean (str ++ [z]).dropLast then .error .badString
      else .ok (f (unbe16 a b) (unbe16 c d) (str ++ [z]).dropLast) := by
    cases str <;> rfl
  rw [hread, ite_error_eq_ok_iff, ite_error_eq_ok_iff, List.getLastD_concat, List.dropLast_concat]
  simp

/-- Format PS reads the payload of any position and any string without a 0x00. -/
theorem readS_eq_ok_iff {f : Word16 → Word16 → List Byte → Instr} {j : Instr} {p : List Byte} :
    readS f p = .ok j ↔ ∃ a b str, stringClean str = true ∧ p = payloadS a b str ∧ f a b str = j := by
  constructor
  · intro h
    match p, h with
    | a :: b :: c :: d :: rest, h =>
      obtain rfl | ⟨str, z, rfl⟩ := rest.eq_nil_or_concat'
      · cases h
      · obtain ⟨rfl, hclean, hj⟩ := readS_concat_eq_ok_iff.mp h
        exact ⟨_, _, str, hclean, by simp [payloadS], hj⟩
  · rintro ⟨a, b, str, hclean, rfl, rfl⟩
    rw [payloadS, List.append_assoc]
    exact readS_concat_eq_ok_iff.mpr ⟨rfl, hclean, by rw [unbe16_be16, unbe16_be16]⟩

/-! ## The payload of a command read back -/

/-- A payload that reads back is the payload of the command it gives, of the opcode it was read for, and that command's read
size and string pass their checks (R100, R103, R108). -/
theorem payload_of_readPayload {p : List Byte} {o : Opcode} {i : Instr} (h : readPayload p o = .ok i) :
    i.opcode = o ∧ i.payload = p ∧ i.readSizeOk = true ∧ i.textClean = true := by
  cases o with
  | handshake | getBaudRate | getStorageArea | enterSleep | refresh | getDisplayDirection | importFontLibrary | importImage
  | getDrawingColor | getEnglishFontSize | getChineseFontSize | clearScreen =>
    obtain ⟨rfl, rfl⟩ := readP0_eq_ok_iff.mp h
    exact ⟨rfl, rfl, rfl, rfl⟩
  | setStorageArea | setDisplayDirection | setEnglishFontSize | setChineseFontSize =>
    obtain ⟨_, -, rfl, rfl⟩ := readE1_eq_ok_iff.mp h
    exact ⟨rfl, rfl, rfl, rfl⟩
  | setDrawingColor =>
    obtain ⟨_, _, -, -, rfl, rfl⟩ := readE2_eq_ok_iff.mp h
    exact ⟨rfl, rfl, rfl, rfl⟩
  | setBaudRate =>
    obtain ⟨_, rfl, rfl⟩ := readR_eq_ok_iff.mp h
    exact ⟨rfl, rfl, rfl, rfl⟩
  | drawPoint =>
    obtain ⟨_, _, rfl, rfl⟩ := readC2_eq_ok_iff.mp h
    exact ⟨rfl, rfl, rfl, rfl⟩
  | drawCircle | fillCircle =>
    obtain ⟨_, _, _, rfl, rfl⟩ := readC3_eq_ok_iff.mp h
    exact ⟨rfl, rfl, rfl, rfl⟩
  | drawLine | fillRectangle | drawRectangle =>
    obtain ⟨_, _, _, _, rfl, rfl⟩ := readC4_eq_ok_iff.mp h
    exact ⟨rfl, rfl, rfl, rfl⟩
  | drawTriangle | fillTriangle =>
    obtain ⟨_, _, _, _, _, _, rfl, rfl⟩ := readC6_eq_ok_iff.mp h
    exact ⟨rfl, rfl, rfl, rfl⟩
  | displayText | displayImage =>
    obtain ⟨_, _, _, hclean, rfl, rfl⟩ := readS_eq_ok_iff.mp h
    exact ⟨rfl, rfl, rfl, hclean⟩

/-- An operand in its domain is its low byte (R102, R112). -/
theorem setWidth_lo8_of_inDomain {d : Domain} {v : Word16} (h : inDomain d v = true) : (lo8 v).setWidth 16 = v := by
  obtain ⟨c, -, hc⟩ := List.any_eq_true.mp h
  rw [← eq_of_beq hc, lo8_setWidth]

/-- The payload of a command whose enumeration operands and string pass their checks reads back as the command (R111). -/
theorem readPayload_payload {i : Instr} (hdomain : i.operandsInDomain = true) (hclean : i.textClean = true) :
    readPayload i.payload i.opcode = .ok i.wire := by
  cases i with
  | handshake | getBaudRate _ | getStorageArea | enterSleep | refresh | getDisplayDirection | importFontLibrary
  | importImage | getDrawingColor | getEnglishFontSize | getChineseFontSize | clearScreen => rfl
  | setStorageArea _ | setDisplayDirection _ | setEnglishFontSize _ | setChineseFontSize _ =>
    exact readE1_eq_ok_iff.mpr ⟨_, setWidth_lo8_of_inDomain hdomain, rfl, rfl⟩
  | setDrawingColor _ _ =>
    obtain ⟨hcolor, hbackground⟩ := Bool.and_eq_true_iff.mp hdomain
    exact readE2_eq_ok_iff.mpr
      ⟨_, _, setWidth_lo8_of_inDomain hcolor, setWidth_lo8_of_inDomain hbackground, rfl, rfl⟩
  | setBaudRate _ => exact readR_eq_ok_iff.mpr ⟨_, rfl, rfl⟩
  | drawPoint _ _ => exact readC2_eq_ok_iff.mpr ⟨_, _, rfl, rfl⟩
  | drawCircle _ _ _ | fillCircle _ _ _ => exact readC3_eq_ok_iff.mpr ⟨_, _, _, rfl, rfl⟩
  | drawLine _ _ _ _ | fillRectangle _ _ _ _ | drawRectangle _ _ _ _ =>
    exact readC4_eq_ok_iff.mpr ⟨_, _, _, _, rfl, rfl⟩
  | drawTriangle _ _ _ _ _ _ | fillTriangle _ _ _ _ _ _ =>
    exact readC6_eq_ok_iff.mpr ⟨_, _, _, _, _, _, rfl, rfl⟩
  | displayText _ _ _ | displayImage _ _ _ => exact readS_eq_ok_iff.mpr ⟨_, _, _, hclean, rfl, rfl⟩

/-- Format PS takes five bytes and the characters (R98, R100). -/
@[simp] theorem payloadS_length (a b : Word16) (str : List Byte) : (payloadS a b str).length = 5 + str.length := by
  simp only [payloadS, List.length_append, be16_length, List.length_singleton]
  omega

/-- The string of a command fits exactly if its frame does (R98, R99). -/
theorem textFits_iff (i : Instr) : i.textFits = true ↔ 9 + i.payload.length ≤ 1033 := by
  cases i with
  | displayText a b str | displayImage a b str =>
    rw [Instr.payload, payloadS_length, Instr.textFits, Instr.text, stringFits, decide_eq_true_eq, Config.maxFrame_eq]
    omega
  | _ => exact iff_of_true rfl (of_decide_eq_true rfl)

/-- A command is well formed if each check of R108 passes. -/
theorem Instr.wellFormed_iff (i : Instr) :
    i.wellFormed = true ↔
      i.operandsInDomain = true ∧ i.readSizeOk = true ∧ i.textFits = true ∧ i.textClean = true := by
  simp only [Instr.wellFormed, Bool.and_eq_true, and_assoc]

/-- What the decoder answers for a well-formed command passes the domain check as the command does. -/
theorem operandsInDomain_wire (i : Instr) : i.wire.operandsInDomain = i.operandsInDomain := by
  cases i <;> rfl

/-- Settles O17: the frame of a command passes the checks of its fields, and its payload reads back as the command. -/
theorem decodeOfEncode : Obligations.DecodeOfEncode := by
  intro i hi
  obtain ⟨hdomain, -, hfits, hclean⟩ := i.wellFormed_iff.mp hi
  exact frameDecode_eq_ok_iff.mpr
    ⟨decode_eq_ok_iff.mpr ⟨i.opcode, i.payload, rfl, (textFits_iff i).mp hfits, readPayload_payload hdomain hclean⟩,
      (operandsInDomain_wire i).trans hdomain⟩

/-- Settles O18: what the decoder accepts is the frame of an opcode and a payload, and the payload is that of the command it
reads back as. -/
theorem encodeOfDecode : Obligations.EncodeOfDecode := by
  intro b i h
  obtain ⟨hdecode, hdomain⟩ := frameDecode_eq_ok_iff.mp h
  obtain ⟨o, p, rfl, hfits, hread⟩ := decode_eq_ok_iff.mp hdecode
  obtain ⟨rfl, rfl, hsize, hclean⟩ := payload_of_readPayload hread
  exact ⟨rfl, i.wellFormed_iff.mpr ⟨hdomain, hsize, (textFits_iff i).mpr hfits, hclean⟩⟩

end Sys2Proof
end

section
/-! PROOFS. The layout of a frame and its checksum (R90 to R96, R109), the opcode map (R104), and frames written out. -/

namespace Sys2Proof

/-- The value of two bytes, the high one first (R10). -/
theorem unbe16_toNat (h l : Byte) : (unbe16 h l).toNat = 256 * h.toNat + l.toNat := by
  rw [unbe16, BitVec.toNat_append, ← Nat.shiftLeft_add_eq_or_of_lt l.isLt, Nat.shiftLeft_eq]
  omega

/-- Settles O19: the two length bytes are those of the payload's frame, and the checksum folds the frame to zero. -/
theorem frameLayout : Obligations.FrameLayout := by
  intro op p hfits
  obtain ⟨h1, h2, hlength⟩ := exists_length_bytes hfits
  have hframe := frameBytes_of_length op hlength
  refine ⟨h1, h2, _, hframe, ?_, ?_, xor8_frameBytes op p⟩
  · rw [← unbe16_toNat, hlength, frameBytes_length]
  · rw [frameBytes_length, hframe, List.take_left' (by simp [Config.trailer]; omega)]

/-- The XOR of a sequence cut in two (R11). -/
theorem xor8_append (s t : List Byte) : xor8 (s ++ t) = xor8 s ^^^ xor8 t := by
  induction t using List.reverseRecOn with
  | nil => simp [xor8]
  | append_singleton t b ih =>
    rw [← List.append_assoc, xor8_append_singleton, xor8_append_singleton, ih, BitVec.xor_assoc]

/-- The trailer folds to zero (R95, R109). -/
theorem xor8_trailer : xor8 Config.trailer = 0 := by decide

/-- Settles O20: the checksum is the XOR of the fields before it, of which the trailer contributes nothing. -/
theorem checksumIdentity : Obligations.ChecksumIdentity := by
  refine ⟨xor8_trailer, fun op h1 h2 chk p hframe => ?_⟩
  obtain ⟨hbody, hchk⟩ := List.append_inj' hframe rfl
  have hfold : xor8 [0xA5, h1, h2, op] = 0xA5 ^^^ h1 ^^^ h2 ^^^ op := by simp [xor8]
  rw [← List.singleton_inj.mp hchk, hbody, ← Config.trailer, xor8_append, xor8_append, xor8_trailer, hfold]
  exact BitVec.xor_zero

/-- Settles O15: the bytes that name a command are those in the opcode map. -/
theorem opcodeSet : Obligations.OpcodeSet := by
  intro b
  change (Opcode.ofByte b).isSome = (Opcode.all.map Opcode.byte).contains b
  rw [Opcode.ofByte, Bool.eq_iff_iff, List.find?_isSome, List.contains_iff_mem, List.mem_map]
  simp only [beq_iff_eq]

/-- Settles O16: each is the frame of its command, which is well formed. -/
theorem writtenFramesDecode : Obligations.WrittenFramesDecode :=
  ⟨decodeOfEncode .handshake rfl, decodeOfEncode (.setBaudRate 115200) rfl, decodeOfEncode (.setDrawingColor 3 0) rfl,
    decodeOfEncode (.setEnglishFontSize 2) rfl, decodeOfEncode (.drawPoint 799 599) rfl,
    decodeOfEncode (.drawLine 10 20 300 400) rfl, decodeOfEncode (.drawCircle 400 300 50) rfl,
    decodeOfEncode (.drawTriangle 10 10 100 10 55 90) rfl, decodeOfEncode (.displayText 10 20 [0x48, 0x69]) rfl⟩

end Sys2Proof
end

section
/-! PROOFS. Every byte sequence the block writes is a frame (R90, R106): what the encoder makes of a command or of the latch is
one, and nothing else is sent. -/

namespace Sys2Proof.Machine

/-! ## Which byte sequences are frames -/

/-- What the reference decoder accepts is a frame. -/
theorem isFrame_of_frameDecode {b : List Byte} {i : Instr} (h : frameDecode b = .ok i) : isFrame b = true := by
  rw [isFrame, h]

/-- The frame of a well-formed command is one (R111). -/
theorem isFrame_encode {i : Instr} (h : i.wellFormed = true) : isFrame (encode i) = true :=
  isFrame_of_frameDecode (decodeOfEncode i h)

/-- An opcode and a payload that reads back with its operands in their domains make a frame. -/
theorem isFrame_of_readPayload {o : Opcode} {p : List Byte} {i : Instr} (hfits : 9 + p.length ≤ 1033)
    (hread : readPayload p o = .ok i) (hdomain : i.operandsInDomain = true) : isFrame (frameBytes o.byte p) = true :=
  isFrame_of_frameDecode (frameDecode_eq_ok_iff.mpr ⟨decode_eq_ok_iff.mpr ⟨o, p, rfl, hfits, hread⟩, hdomain⟩)

/-- A payload built from the latch reads back, with its operands in their domains: the checks of R108 are those of R110. -/
theorem readPayload_of_formatPayload {l : Latch} {o : Opcode} {p : List Byte}
    (h : l.formatPayload o.format = some p) : ∃ i, readPayload p o = .ok i ∧ i.operandsInDomain = true := by
  cases o with
  | handshake | getBaudRate | getStorageArea | enterSleep | refresh | getDisplayDirection | importFontLibrary | importImage
  | getDrawingColor | getEnglishFontSize | getChineseFontSize | clearScreen =>
    obtain rfl := Option.some.inj h
    exact ⟨_, rfl, rfl⟩
  | setStorageArea | setDisplayDirection | setEnglishFontSize | setChineseFontSize =>
    obtain ⟨hdomain, hp⟩ := Option.ite_none_right_eq_some.mp h
    obtain rfl := Option.some.inj hp
    exact ⟨_, readE1_eq_ok_iff.mpr ⟨_, setWidth_lo8_of_inDomain hdomain, rfl, rfl⟩, hdomain⟩
  | setDrawingColor =>
    obtain ⟨hdomain, hp⟩ := Option.ite_none_right_eq_some.mp h
    obtain rfl := Option.some.inj hp
    obtain ⟨hcolor, hbackground⟩ := Bool.and_eq_true_iff.mp hdomain
    exact ⟨_, readE2_eq_ok_iff.mpr
      ⟨_, _, setWidth_lo8_of_inDomain hcolor, setWidth_lo8_of_inDomain hbackground, rfl, rfl⟩, hdomain⟩
  | setBaudRate =>
    obtain rfl := Option.some.inj h
    exact ⟨_, readR_eq_ok_iff.mpr ⟨_, rfl, rfl⟩, rfl⟩
  | drawPoint =>
    obtain rfl := Option.some.inj h
    exact ⟨_, readC2_eq_ok_iff.mpr ⟨_, _, rfl, rfl⟩, rfl⟩
  | drawCircle | fillCircle =>
    obtain rfl := Option.some.inj h
    exact ⟨_, readC3_eq_ok_iff.mpr ⟨_, _, _, rfl, rfl⟩, rfl⟩
  | drawLine | fillRectangle | drawRectangle =>
    obtain rfl := Option.some.inj h
    exact ⟨_, readC4_eq_ok_iff.mpr ⟨_, _, _, _, rfl, rfl⟩, rfl⟩
  | drawTriangle | fillTriangle =>
    obtain rfl := Option.some.inj h
    exact ⟨_, readC6_eq_ok_iff.mpr ⟨_, _, _, _, _, _, rfl, rfl⟩, rfl⟩
  | displayText | displayImage =>
    obtain ⟨-, h⟩ := Option.ite_none_left_eq_some.mp h
    obtain ⟨hclean, hp⟩ := Option.ite_none_left_eq_some.mp h
    obtain rfl := Option.some.inj hp
    exact ⟨_, readS_eq_ok_iff.mpr ⟨_, _, _, by simpa using hclean, rfl, rfl⟩, rfl⟩

/-- The payload PH_ENCODE builds makes a frame if it fits: that of a Handshake, or that of the latch (R133). -/
theorem isFrame_of_txPayload {s : State} {p : List Byte} (h : s.txPayload = some p) (hfits : 9 + p.length ≤ 1033) :
    isFrame (frameBytes s.txOpcode p) = true := by
  unfold State.txPayload at h
  unfold State.txOpcode
  cases hseq : s.seq with
  | true =>
    obtain rfl := Option.some.inj ((if_pos hseq).symm.trans h)
    exact isFrame_encode (i := .handshake) rfl
  | false =>
    rw [hseq, if_neg Bool.false_ne_true, Latch.buildPayload] at h
    rw [if_neg Bool.false_ne_true]
    cases ho : Opcode.ofByte s.latch.op with
    | none => simp [ho] at h
    | some o =>
      rw [ho] at h
      obtain ⟨-, hformat⟩ := Option.ite_none_left_eq_some.mp h
      obtain ⟨i, hread, hdomain⟩ := readPayload_of_formatPayload hformat
      rw [← byte_of_ofByte ho]
      exact isFrame_of_readPayload hfits hread hdomain

/-- What an encode leaves in FB is a frame if the opcode and the payload make one (R61, R107). -/
theorem isFrame_of_frameEncode {o : Byte} {p : List Byte} {c d : Codec} (hwf : c.fb.wf = true)
    (hd : frameEncode o p c = some d) (h : 9 + p.length ≤ 1033 → isFrame (frameBytes o p) = true) :
    isFrame d.frame = true := by
  rw [frame_of_frameEncode hwf hd]
  refine h (Nat.not_lt.mp fun hlong => ?_)
  rw [frameEncode_eq, if_pos hlong] at hd
  cases hd

/-! ## The record of the writes -/

/-- Every write on record carries a frame. -/
def Env.FramesSent (e : Env) : Prop := e.trace.all Event.frameOk = true

/-- A call keeps the record if it is no write, or a write of a frame. -/
theorem Env.framesSent_cons {e e' : Env} {ev : Event} (h : e'.trace = ev :: e.trace) :
    e'.FramesSent ↔ ev.frameOk = true ∧ e.FramesSent := by
  rw [Env.FramesSent, h, List.all_cons, Bool.and_eq_true_iff]
  rfl

/-- A write of a frame keeps the record. -/
theorem State.sendFrame_framesSent {s : State} (h : s.env.FramesSent) (hframe : isFrame s.codec.frame = true) :
    s.sendFrame.2.env.FramesSent :=
  (Env.framesSent_cons (s.env.write_trace s.codec.frame)).mpr ⟨hframe, h⟩

/-- A read is no write. -/
theorem Env.readExact_framesSent {e : Env} (h : e.FramesSent) (n : Nat) (o : Byte) : (e.readExact n o).2.FramesSent :=
  (Env.framesSent_cons (e.readExact_trace n o)).mpr ⟨rfl, h⟩

/-- What follows a write is no write (R134 to R137). -/
theorem afterWrite_framesSent (o : Byte) (shape : Shape) (n : Nat) {q : WriteAnswer × State}
    (h : q.2.env.FramesSent) : (afterWrite o shape n q).1.env.FramesSent := by
  unfold afterWrite
  split
  · exact h
  · split
    · rw [afterRead_env, State.readReply_env]
      exact Env.readExact_framesSent (e := (q.2.settle o).env) h n o
    · exact h

/-- FB is in canonical form, and every write on record carries a frame. -/
def State.FramesSound (s : State) : Prop := s.codec.fb.wf = true ∧ s.env.FramesSent

/-- A transaction writes its frame and nothing else (R149). -/
theorem transaction_framesSound {o : Byte} {p : List Byte} (hp : 9 + p.length ≤ 1033 → isFrame (frameBytes o p) = true)
    (shape : Shape) (n : Nat) {s : State} (h : s.FramesSound) : (transaction o p shape n s).1.FramesSound := by
  obtain ⟨hwf, hsent⟩ := h
  refine ⟨((transaction_codec o p shape n s).fb hwf).1, ?_⟩
  cases hc : frameEncode o p s.codec with
  | none =>
    rw [transaction_of_tooLong shape n hc]
    exact hsent
  | some c =>
    rw [transaction_of_encoded shape n hc]
    exact afterWrite_framesSent o shape n (State.sendFrame_framesSent hsent (isFrame_of_frameEncode hwf hc hp))

/-- The Handshake of a composite command writes its frame (R148). -/
theorem followUp_framesSound {s : State} (h : s.FramesSound) : (transaction 0x00 [] .ack 2 s).1.FramesSound :=
  transaction_framesSound (fun _ => isFrame_encode (i := .handshake) rfl) .ack 2 h

/-- A command's own transaction writes the command's frame, or, where a check fails, nothing (R108, R231). -/
theorem ownTransaction_framesSound (i : Instr) {s : State} (h : s.FramesSound) : (ownTransaction i s).1.FramesSound := by
  cases hi : i.wellFormed with
  | true =>
    rw [ownTransaction_of_wellFormed hi]
    exact transaction_framesSound (fun _ => isFrame_encode hi) _ _ h
  | false =>
    rw [ownTransaction_of_illFormed hi]
    exact h

/-- A completion writes nothing, or the frame of a Handshake (R148). -/
theorem completion_framesSound (i : Instr) {p : State × TxOut} (h : p.1.FramesSound) : (completion i p).FramesSound := by
  obtain ⟨rate, -, hc⟩ | ⟨-, hc⟩ | ⟨-, hc⟩ := completion_cases i p
  · rw [hc]
    exact followUp_framesSound (s := { p.1 with env := p.1.env.configureBaudRate rate, seq := true }) h
  · rw [hc]
    have hfold := followUp_framesSound (s := { p.1.recordOutcome p.2 with seq := true }) h
    unfold foldHandshake
    dsimp only
    split <;> exact hfold
  · rw [hc]
    exact h

/-- Nothing but frames was written, and nothing but a frame is about to be. -/
theorem State.framesOk_iff (s : State) :
    s.framesOk = true ↔ s.env.FramesSent ∧ (s.ph = .write → isFrame s.codec.frame = true) := by
  rw [State.framesOk, Bool.and_eq_true_iff, Bool.or_eq_true, bne_iff_ne, ← imp_iff_not_or]
  rfl

/-- Outside PH_WRITE only what was written counts. -/
theorem State.framesOk_of_ph {s : State} (hph : s.ph ≠ .write) (h : s.env.FramesSent) : s.framesOk = true :=
  s.framesOk_iff.mpr ⟨h, fun hw => absurd hw hph⟩

/-- A command as a value writes frames only. -/
theorem exec_framesOk {i : Instr} {s t : State} (hwf : s.codec.fb.wf = true) (h : s.env.FramesSent)
    (he : exec i s = .next t) : t.framesOk = true := by
  refine State.framesOk_of_ph (by rw [exec_ph he]; nofun) ?_
  obtain ⟨-, rfl⟩ := exec_next he
  exact (completion_framesSound i (ownTransaction_framesSound i (s := s.issue (rawOf i)) ⟨hwf, h⟩)).2

/-- No transaction ends at PH_WRITE (R138). -/
theorem State.endTransaction_ph_ne_write (s : State) (out : TxOut) : (s.endTransaction out).ph ≠ .write := by
  rw [State.endTransaction_ph]
  split <;> nofun

/-- PH_ENCODE goes on to PH_WRITE with a frame in FB only (R133). -/
theorem phEncode_framesOk {s : State} (hwf : s.codec.fb.wf = true) (h : s.env.FramesSent) :
    (phEncode s).framesOk = true := by
  refine (State.framesOk_iff _).mpr ⟨(phEncode_env s).symm ▸ h, ?_⟩
  unfold phEncode
  split
  · exact fun hw => absurd hw (State.endTransaction_ph_ne_write _ _)
  · rename_i p hp
    split
    · exact fun hw => absurd hw (State.endTransaction_ph_ne_write _ _)
    · rename_i c hc
      exact fun _ => isFrame_of_frameEncode hwf hc (isFrame_of_txPayload hp)

/-- PH_WRITE is one step (R134). -/
theorem phWrite_ph_ne_write (s : State) : (phWrite s).ph ≠ .write := by
  unfold phWrite
  dsimp only
  split
  · exact State.endTransaction_ph_ne_write _ _
  · split
    · nofun
    · split
      · nofun
      · exact State.endTransaction_ph_ne_write _ _

/-- PH_READ does not go back to PH_WRITE (R136). -/
theorem phRead_ph_ne_write (s : State) : (phRead s).ph ≠ .write := by
  unfold phRead
  dsimp only
  split
  · exact State.endTransaction_ph_ne_write _ _
  · nofun

/-- A phase writes nothing, or in PH_WRITE the frame in FB (R131). -/
theorem phase_framesOk {s : State} (hwf : s.codec.fb.wf = true) (h : s.framesOk = true) : (phase s).framesOk = true := by
  obtain ⟨hsent, hframe⟩ := s.framesOk_iff.mp h
  unfold phase
  cases hph : s.ph with
  | idle => exact h
  | discard => exact State.framesOk_of_ph nofun hsent
  | encode => exact phEncode_framesOk hwf hsent
  | write =>
    exact State.framesOk_of_ph (phWrite_ph_ne_write s) ((phWrite_env s).symm ▸ State.sendFrame_framesSent hsent (hframe hph))
  | settle => exact State.framesOk_of_ph nofun hsent
  | read =>
    exact State.framesOk_of_ph (phRead_ph_ne_write s) ((phRead_env s).symm ▸ Env.readExact_framesSent hsent _ _)
  | decode => exact State.framesOk_of_ph (State.endTransaction_ph_ne_write _ _) hsent
  | reconf => exact State.framesOk_of_ph nofun hsent
  | done => exact State.framesOk_of_ph nofun hsent

/-- A phase step writes frames only. -/
theorem phaseStep_framesOk {s t : State} (hwf : s.codec.fb.wf = true) (h : s.framesOk = true)
    (hstep : phaseStep s = .next t) : t.framesOk = true := by
  obtain ⟨-, rfl⟩ := phaseStep_next hstep
  exact phase_framesOk hwf h

/-- Settles O4: a command as a value writes the frames of well-formed commands, and of the phases only PH_ENCODE puts bytes
into FB and only PH_WRITE sends them. -/
theorem stepKeepsFrames : Obligations.StepKeepsFrames := by
  intro s t hinv hframes hstep
  obtain ⟨hwf, -, -⟩ := ((State.inv_iff s).mp hinv).codec
  obtain ⟨hsent, -⟩ := s.framesOk_iff.mp hframes
  obtain hs | ⟨bs, hs⟩ | ⟨i, -, hs⟩ | ⟨c, -, hs⟩ | hs | hs := step_cases s <;> rw [hs] at hstep
  · exact Host.Outcome.next.inj hstep ▸ State.framesOk_of_ph nofun hsent
  · exact Host.Outcome.next.inj hstep ▸ hframes
  · exact exec_framesOk (s := s.popMove) hwf hsent hstep
  · exact Host.Outcome.next.inj hstep ▸ State.framesOk_of_ph nofun hsent
  · exact phaseStep_framesOk (s := s.popMove) hwf hframes hstep
  · exact phaseStep_framesOk hwf hframes hstep

end Sys2Proof.Machine
end

section
/-! PROOFS. Failures of the encode: a command that fails a check of R108 and an opcode outside the Command Set (R106). -/

namespace Sys2Proof.Machine

/-- The discard of any command but a Handshake changes the surroundings only (R132). -/
theorem beginTransaction_of_ne_zero {o : Byte} (ho : o ≠ 0x00) (s : State) :
    s.beginTransaction o = { s with env := s.env.discardBuffered } := by
  rw [State.beginTransaction, if_neg ho]

/-- Only a Handshake's outcome moves S (R138). -/
theorem settleSession_of_ne_zero {o : Byte} (ho : o ≠ 0x00) (out : TxOut) (s : State) :
    s.settleSession o out = s := by
  rw [State.settleSession, if_neg ho]

/-- A failed encode of any command but a Handshake leaves the discard and nothing else (R108, R231). -/
theorem encodingFailure_of_ne_zero {o : Byte} (ho : o ≠ 0x00) (s : State) :
    encodingFailure o s = ({ s with env := s.env.discardBuffered }, .fail .encodingError {}) := by
  rw [encodingFailure, State.closeTransaction, settleSession_of_ne_zero ho, beginTransaction_of_ne_zero ho]

/-- The two composite commands pass every check (R108, R148), so that a command that fails one only records its outcome. -/
theorem completion_of_illFormed {i : Instr} (hi : i.wellFormed = false) (p : State × TxOut) :
    completion i p = conclude p := by
  cases i with
  | setBaudRate _ | clearScreen => cases hi
  | _ => rfl

/-- Settles O23: a command that fails a check is no Handshake and no composite command, so it ends after the discard. -/
theorem illFormedCommandFails : Obligations.IllFormedCommandFails := by
  intro i s hph hi
  have hop : i.opcode.byte ≠ 0x00 := opcode_byte_ne_zero (by rintro rfl; cases hi)
  rw [exec_of_idle i hph, completion_of_illFormed hi, ownTransaction_of_illFormed hi, encodingFailure_of_ne_zero hop]
  rfl

/-- PH_DISCARD of any command but a Handshake changes the surroundings only (R132). -/
theorem phDiscard_of_ne_zero {s : State} (h : s.txOpcode ≠ 0x00) :
    phDiscard s = { s with env := s.env.discardBuffered, ph := .encode } := by
  rw [phDiscard, beginTransaction_of_ne_zero h]

/-- The end of the one transaction of a command that is neither a Handshake nor a ClearScreen records the outcome and goes to
PH_DONE (R138). -/
theorem endTransaction_of_ne {s : State} (hseq : s.seq = false) (h0 : s.latch.op ≠ 0x00) (h2E : s.latch.op ≠ 0x2E)
    (out : TxOut) : s.endTransaction out = { s with result := out.record false s.result, ph := .done } := by
  have hop : s.txOpcode = s.latch.op := by rw [State.txOpcode, hseq]; rfl
  have hkeep : s.keepsFirst = false := by rw [State.keepsFirst, hseq]; rfl
  have hclear : (s.latch.op == 0x2E) = false := beq_eq_false_iff_ne.mpr h2E
  rw [State.endTransaction, settleSession_of_ne_zero (hop ▸ h0), if_neg (fun h => h2E h.1), hkeep, hclear, Bool.or_false,
    if_neg Bool.false_ne_true, State.recordOutcome_result, hseq]

/-- PH_ENCODE of an opcode outside the Command Set reads no operand and ends the transaction (R106, R108). -/
theorem phEncode_of_unknown {s : State} (hseq : s.seq = false) (h : Opcode.ofByte s.latch.op = none) :
    phEncode s = s.raiseError .encodingError {} := by
  rw [phEncode, State.txPayload, hseq, Latch.buildPayload, h]
  rfl

/-- PH_ENCODE of an opcode outside the Command Set does not stop (R25, R106). -/
theorem phaseGuard_encode_of_unknown {s : State} (hph : s.ph = .encode) (h : Opcode.ofByte s.latch.op = none) :
    phaseGuard s = none := by
  rw [phaseGuard, hph, Latch.operandsWritten, h, Bool.or_true]
  rfl

/-- One phase without a fault leads to the state the phase gives. -/
theorem Reach.of_phase {s t : State} (h : s.ph ≠ .idle) (hguard : phaseGuard s = none) (ht : phase s = t) : Reach 1 s t :=
  ht ▸ Reach.step h hguard

/-- Settles O24: the walk from PH_DISCARD over PH_ENCODE and PH_DONE to PH_IDLE. -/
theorem unknownOpcodeFails : Obligations.UnknownOpcodeFails := by
  intro c s hph hop
  have h0 : c.op ≠ 0x00 := fun h => by rw [h] at hop; cases hop
  have h2E : c.op ≠ 0x2E := fun h => by rw [h] at hop; cases hop
  have hdiscard : Reach 1 (s.issue c) { s.issue c with env := s.env.discardBuffered, ph := .encode } :=
    .of_phase nofun rfl (phDiscard_of_ne_zero h0)
  have hencode : Reach 1 { s.issue c with env := s.env.discardBuffered, ph := .encode }
      { s.issue c with
        env := s.env.discardBuffered
        result := TxOut.record false (s.issue c).result (.fail .encodingError {})
        ph := .done } :=
    .of_phase nofun (phaseGuard_encode_of_unknown rfl hop)
      ((phEncode_of_unknown rfl hop).trans (endTransaction_of_ne rfl h0 h2E _))
  have hwalk := (hdiscard.trans hencode).trans (.of_phase nofun rfl rfl)
  refine (hwalk 17).trans ?_
  rw [hph]
  rfl

end Sys2Proof.Machine
end

section
/-! PROOFS. The command port: an issue at PH_IDLE and an issue while a command is in progress (R130, R278). -/

namespace Sys2Proof.Machine

/-- Settles O7: the host's next move is the issue, and the port is ready. -/
theorem stepRunsIssuedCommand : Obligations.StepRunsIssuedCommand := fun _ _ _ hph hm => step_of_issue hph hm

/-- Settles O10: every command is run from its issue, which stops where the port is not ready. -/
theorem busyExecStops : Obligations.BusyExecStops := fun i s hph => (exec_eq_runCommand i s).trans (if_neg hph)

/-! ## An issue while a command is in progress -/

/-- A call leaves the host's moves alone. -/
theorem Env.Call.moves {e e' : Env} (h : e.Call e') : e'.moves = e.moves := by
  cases h with
  | discard | settle _ | configureBaudRate _ => rfl
  | write frame => exact e.write_moves frame
  | read n o => exact e.readExact_moves n o

/-- So do calls one after another. -/
theorem Env.Calls.moves {e e' : Env} (h : e.Calls e') : e'.moves = e.moves := by
  induction h with
  | refl => rfl
  | tail _ hcall ih => exact hcall.moves.trans ih

/-- While a command is in progress an issue is not taken: the step is the next phase (R130). -/
theorem step_of_busy {s : State} {m : HostMove} {ms : List HostMove} (hph : s.ph ≠ .idle) (hm : s.env.moves = m :: ms)
    (h : (∃ i, m = .issue i) ∨ ∃ c, m = .issueRaw c) : step s = phaseStep s := by
  unfold step
  obtain ⟨i, rfl⟩ | ⟨c, rfl⟩ := h <;> rw [hm] <;> exact if_neg hph

/-- Settles O9: the step is the next phase, and a phase makes calls only, which leave the moves alone. -/
theorem busyPortHoldsIssue : Obligations.BusyPortHoldsIssue := by
  intro s t m ms hph hm hissue
  have hbusy := step_of_busy hph hm hissue
  exact ⟨hbusy, fun hstep => (phaseStep_calls (hbusy.symm.trans hstep)).moves.trans hm⟩

/-! ## An issue in the register view -/

/-- An issue of register values at PH_IDLE is one step (R130). -/
theorem step_of_issueRaw {s : State} {c : RawIssue} {ms : List HostMove} (hph : s.ph = .idle)
    (hm : s.env.moves = .issueRaw c :: ms) :
    step s = .next (State.issue c { s with env := { s.env with moves := ms } }) := by
  unfold step State.popMove
  rw [hm]
  exact if_pos hph

/-- The characters STR takes of a string are the first 1019 (R23, log entry 13). -/
theorem Latch.accept_str_of_some {l : Latch} {c : RawIssue} {str : List Byte} (h : c.str = some str) :
    (l.accept c).str = l.str.writeBytes 0 (str.take 1019) := by
  rw [Latch.accept, h]
  rfl

/-- The bytes of STR after an issue that writes a string: its first 1019 characters, and above them the old bytes. -/
theorem Latch.accept_str_bytes {l : Latch} (hl : l.str.wf = true) {c : RawIssue} {str : List Byte} (h : c.str = some str) :
    (l.accept c).str.readBytes 0 (min str.length 1019) = str.take 1019 ∧
      ∀ a, min str.length 1019 ≤ a → (l.accept c).str.read a = l.str.read a := by
  have hlen : (str.take 1019).length = min str.length 1019 := by rw [List.length_take, Nat.min_comm]
  rw [Latch.accept_str_of_some h, ← hlen]
  exact ⟨Memory.readBytes_writeBytes hl 0 _, fun a ha => Memory.read_writeBytes_after hl _ (by rwa [Nat.zero_add])⟩

/-- The marks after an issue: the registers the host wrote, and for STR the characters taken (R25, log entry 9). -/
theorem Latch.accept_written (l : Latch) (c : RawIssue) :
    (l.accept c).written =
      { x0 := c.x0.isSome, x1 := c.x1.isSome, x2 := c.x2.isSome, x3 := c.x3.isSome, x4 := c.x4.isSome,
        x5 := c.x5.isSome, rate := c.rate.isSome, slen := c.slen.isSome,
        str := min (c.str.getD []).length 1019, nread := c.nread.isSome } := by
  rw [Latch.accept, List.length_take, Nat.min_comm, Config.maxStr_eq]

/-- Settles O11: the step is the issue, which changes the latch, RES_VALID, SEQ and PH, and takes the move. -/
theorem issueLatchesOperands : Obligations.IssueLatchesOperands := by
  intro s c ms hph hm
  refine ⟨_, step_of_issueRaw hph hm, rfl, rfl, rfl, rfl, rfl, rfl, rfl, rfl, rfl, rfl,
    Latch.accept_written s.latch c, ?_, fun hwf str hstr => Latch.accept_str_bytes hwf hstr, rfl, rfl, rfl, rfl, rfl, rfl, rfl⟩
  intro hnone
  rw [State.issue_latch, Latch.accept, hnone]
  rfl

end Sys2Proof.Machine
end

section
/-! PROOFS. Two reply decoders: DecodeAck (R141) and DecodeNumericAscii (R144). -/

namespace Sys2Proof.Machine

/-- Settles O48: fewer than two bytes are a short reply, and two bytes are compared with 4F 4B. -/
theorem ackDecoder : Obligations.AckDecoder := ⟨rfl, fun _ => rfl, fun _ _ => rfl⟩

/-! ## The numeric decoder -/

/-- An ASCII digit, by its code (R17). -/
theorem isDigit_iff (b : Byte) : isDigit b = true ↔ 0x30 ≤ b ∧ b ≤ 0x39 := by
  rw [isDigit, Bool.and_eq_true, decide_eq_true_eq, decide_eq_true_eq]
  rfl

/-- A byte below or above the digits is none (R17). -/
theorem isDigit_eq_false {b : Byte} (h : b < 0x30 ∨ 0x39 < b) : isDigit b = false := by
  rw [← Bool.not_eq_true, isDigit_iff]
  bv_omega

/-- The longest leading run of digits ends where the digits end (R144). -/
theorem takeWhile_isDigit_append {digits rest : List Byte} (hdigits : ∀ d ∈ digits, isDigit d = true)
    (hrest : ∀ r, rest.head? = some r → isDigit r = false) : (digits ++ rest).takeWhile isDigit = digits := by
  rw [List.takeWhile_append_of_pos hdigits]
  cases rest with
  | nil => exact List.append_nil digits
  | cons r more => rw [List.takeWhile_cons_of_neg (by simp [hrest r rfl]), List.append_nil]

/-- Reading digits one by one, ten times the value so far plus the digit, adds up their powers of ten (R144). -/
theorem decimal_foldl_eq (digits : List Byte) (v : Nat) :
    digits.foldl (fun v b => v * 10 + (b.toNat - 0x30)) v = v * 10 ^ digits.length + digitSum digits := by
  induction digits generalizing v with
  | nil => simp [digitSum]
  | cons b rest ih =>
    rw [List.foldl_cons, ih, digitSum, List.length_cons, Nat.pow_succ']
    ring

/-- The decimal value of digits is the sum of the digits times their powers of ten (R144). -/
theorem decimal_eq_digitSum (digits : List Byte) : decimal digits = digitSum digits :=
  (decimal_foldl_eq digits 0).trans (by rw [Nat.zero_mul, Nat.zero_add])

/-- Digits and what follows them decode to the number the digits stand for (R144). -/
theorem decodeNumericAscii_of_digits {digits rest : List Byte} (hne : digits ≠ [])
    (htake : (digits ++ rest).takeWhile isDigit = digits) :
    decodeNumericAscii (digits ++ rest) =
      .ok { kind := .numericAscii, b0 := replyByte (digits ++ rest) 0, b1 := replyByte (digits ++ rest) 1, dom := true,
            num := BitVec.ofNat 32 (digitSum digits) } := by
  have hpos := List.length_pos_iff.mpr hne
  rw [decodeNumericAscii, htake, if_neg (by rw [List.length_append]; omega), if_neg (by omega), decimal_eq_digitSum]

/-- Settles O49: the digits are the longest leading run of digits, and nine of them stand for a number below 10^9, which RES_NUM
holds. -/
theorem numericDecoder : Obligations.NumericDecoder := by
  intro digits rest hne hlen hdigits hrest
  have hdigit : ∀ d ∈ digits, isDigit d = true := fun d hd => (isDigit_iff d).mpr (hdigits d hd)
  have hle : digitSum digits ≤ 999999999 := decimal_eq_digitSum digits ▸ decimal_le hdigit (by omega)
  have htake := takeWhile_isDigit_append hdigit fun r hr => isDigit_eq_false (hrest r hr)
  refine ⟨_, decodeNumericAscii_of_digits hne htake, rfl, ?_, hle, rfl, rfl, rfl⟩
  rw [BitVec.toNat_ofNat]
  omega

end Sys2Proof.Machine
end

section
/-! PROOFS. The register view and the value view agree: what PH_ENCODE reads of a command's issue, the walk of one transaction
to its end, and the walks of the commands (R131 to R138, R148). -/

namespace Sys2Proof.Machine

/-! ## What the issue of a command leaves for PH_ENCODE -/

/-- The opcode register after a command's issue names the command (R104, R130). -/
theorem ofByte_accept_rawOf (l : Latch) (i : Instr) : Opcode.ofByte (l.accept (rawOf i)).op = some i.opcode := by
  rw [show (l.accept (rawOf i)).op = i.opcode.byte from rawOf_op i, Laws.FrameShape.ofByte_byte]

/-- SLEN of a string is its length, but at most 65535 (R23, log entry 12). -/
theorem slenOf_toNat (str : List Byte) : (slenOf str).toNat = min str.length 65535 := by
  rw [slenOf, BitVec.toNat_ofNat]
  exact Nat.mod_eq_of_lt (by omega)

/-- SLEN and the characters marked as written after the issue of a string command (R23, R25, log entries 9 and 13). -/
theorem slen_accept_rawOf (l : Latch) {i : Instr} (hi : i.opcode.format = .ps) :
    (l.accept (rawOf i)).slen.toNat = min i.text.length 65535 ∧
      (l.accept (rawOf i)).written.str = min i.text.length 1019 := by
  obtain ⟨-, hslen, hstr⟩ | ⟨hformat, -, -⟩ := rawOf_text i
  · simp only [Latch.accept, hslen, hstr, Option.getD_some, slenOf_toNat, List.length_take, Config.maxStr_eq, true_and]
    exact Nat.min_comm _ _
  · exact absurd hi hformat

/-- A string fits exactly if it has at most 1019 characters (R98). -/
theorem stringFits_iff (n : Nat) : stringFits n = true ↔ n ≤ 1019 := by
  rw [stringFits, decide_eq_true_eq, Config.maxFrame_eq]
  omega

/-- SLEN after the issue of a string command fits a frame exactly if the string does (R99). -/
theorem stringFits_accept_rawOf (l : Latch) {i : Instr} (hi : i.opcode.format = .ps) :
    stringFits (l.accept (rawOf i)).slen.toNat = i.textFits := by
  rw [(slen_accept_rawOf l hi).1, Instr.textFits, Bool.eq_iff_iff, stringFits_iff, stringFits_iff]
  omega

/-- The string operand after the issue of a string command is the command's string, if it fits (R23). -/
theorem text_accept_rawOf {l : Latch} {i : Instr} (hl : l.str.wf = true) (hi : i.opcode.format = .ps)
    (hfits : i.textFits = true) : (l.accept (rawOf i)).text = i.text := by
  obtain ⟨hslen, hstr⟩ := accept_rawOf_text hl hi ((stringFits_iff _).mp hfits)
  rw [Latch.text, hslen, hstr]

/-- The payload of a string command, from the registers its issue wrote: none where the string does not fit or holds a 0x00
(R99, R103). -/
theorem formatPayload_ps_accept_rawOf {l : Latch} {i : Instr} (hl : l.str.wf = true) (hi : i.opcode.format = .ps) :
    (l.accept (rawOf i)).formatPayload .ps =
      if i.textFits && i.textClean then some (payloadS (l.accept (rawOf i)).x0 (l.accept (rawOf i)).x1 i.text)
      else none := by
  rw [Latch.formatPayload, stringFits_accept_rawOf l hi]
  cases hfits : i.textFits with
  | false => rfl
  | true =>
    rw [text_accept_rawOf hl hi hfits, Instr.textClean]
    cases stringClean i.text <;> rfl

/-- A command with neither a read size nor a string is well formed exactly if its enumeration operands are in their domains
(R108). -/
theorem wellFormed_of_noText {i : Instr} (hsize : i.readSizeOk = true) (htext : i.text = []) :
    i.wellFormed = i.operandsInDomain := by
  rw [Instr.wellFormed, Instr.textFits, Instr.textClean, hsize, htext, Bool.and_true]
  exact (Bool.and_true _).trans (Bool.and_true _)

/-- The payload built from the registers a command's issue wrote is the command's, none where the command fails a check
(R108). -/
theorem buildPayload_accept_rawOf {l : Latch} (hl : l.str.wf = true) (i : Instr) :
    (l.accept (rawOf i)).buildPayload = if i.wellFormed then some i.payload else none := by
  have hop := ofByte_accept_rawOf l i
  rw [Latch.buildPayload, hop]
  cases i with
  | displayText _ _ _ | displayImage _ _ _ => exact formatPayload_ps_accept_rawOf hl rfl
  | getBaudRate nread =>
    rw [wellFormed_getBaudRate]
    change (if !readSizeLegal nread then none else some []) = if readSizeLegal nread then some [] else none
    cases readSizeLegal nread <;> rfl
  | setStorageArea _ | setDisplayDirection _ | setDrawingColor _ _ | setEnglishFontSize _ | setChineseFontSize _ =>
    rw [wellFormed_of_noText rfl rfl]
    rfl
  | _ => rfl

/-- A string command's issue writes every register its opcode reads, for a string that fits also every character (R25). -/
theorem formatWritten_ps_accept_rawOf {l : Latch} {i : Instr} (hi : i.opcode.format = .ps)
    (hx : ((l.accept (rawOf i)).written.x0 && (l.accept (rawOf i)).written.x1) = true)
    (hs : (l.accept (rawOf i)).written.slen = true) : (l.accept (rawOf i)).formatWritten .ps = true := by
  rw [Latch.formatWritten, hs, hx, stringFits_accept_rawOf l hi, Bool.or_true, Bool.and_true, Bool.true_and]
  cases hfits : i.textFits with
  | false => rfl
  | true =>
    obtain ⟨hslen, hstr⟩ := slen_accept_rawOf l hi
    have hlen := (stringFits_iff _).mp hfits
    exact decide_eq_true (by omega)

/-- A command's issue writes every operand register its opcode reads (R25, R130). -/
theorem operandsWritten_accept_rawOf (l : Latch) (i : Instr) : (l.accept (rawOf i)).operandsWritten = true := by
  have hop := ofByte_accept_rawOf l i
  rw [Latch.operandsWritten, hop]
  cases i with
  | displayText _ _ _ | displayImage _ _ _ =>
    exact Bool.and_eq_true_iff.mpr ⟨formatWritten_ps_accept_rawOf rfl rfl rfl, rfl⟩
  | _ => rfl

/-- In the transaction after a command's issue the opcode is the command's (R131). -/
theorem issue_txOpcode (s : State) (i : Instr) : (s.issue (rawOf i)).txOpcode = i.opcode.byte := rawOf_op i

/-- In the transaction after a command's issue the reply shape is the command's (R140). -/
theorem issue_txShape (s : State) (i : Instr) : (s.issue (rawOf i)).txShape = some i.opcode.shape :=
  congrArg (Option.map Opcode.shape) (ofByte_accept_rawOf s.latch i)

/-- In the transaction after a command's issue the read asks for as many bytes as the command's does (R140). -/
theorem issue_txCount (s : State) (i : Instr) : (s.issue (rawOf i)).txCount = readCount i := by
  rw [State.txCount, issue_txShape]
  cases i <;> rfl

/-- In the transaction after a command's issue the payload is the command's, none where the command fails a check (R108,
R133). -/
theorem issue_txPayload {s : State} (hl : s.latch.str.wf = true) (i : Instr) :
    (s.issue (rawOf i)).txPayload = if i.wellFormed then some i.payload else none :=
  buildPayload_accept_rawOf hl i

/-! ## Walks of a bounded number of phases -/

/-- From `s` the block reaches `t` in at most `n` phases. -/
def ReachWithin (n : Nat) (s t : State) : Prop := ∃ m, m ≤ n ∧ Reach m s t

/-- Bounds add up. -/
theorem ReachWithin.trans {a b : Nat} {s t u : State} (h : ReachWithin a s t) (h' : ReachWithin b t u) :
    ReachWithin (a + b) s u := by
  obtain ⟨m, hm, hreach⟩ := h
  obtain ⟨m', hm', hreach'⟩ := h'
  exact ⟨m + m', Nat.add_le_add hm hm', hreach.trans hreach'⟩

/-- A walk of a known number of phases. -/
theorem Reach.within {n : Nat} {s t : State} (h : Reach n s t) : ReachWithin n s t := ⟨n, le_refl n, h⟩

/-- A bound may be widened. -/
theorem ReachWithin.mono {a b : Nat} {s t : State} (h : ReachWithin a s t) (hab : a ≤ b) : ReachWithin b s t := by
  obtain ⟨m, hm, hreach⟩ := h
  exact ⟨m, hm.trans hab, hreach⟩

/-- At PH_IDLE the block stands still. -/
theorem runToIdle_of_idle {t : State} (ht : t.ph = .idle) (k : Nat) : runToIdle k t = .next t := by
  cases k with
  | zero => rfl
  | succ k => exact if_pos ht

/-- A walk to PH_IDLE within the fuel is the run. -/
theorem ReachWithin.runToIdle {n : Nat} {s t : State} (h : ReachWithin n s t) (ht : t.ph = .idle) :
    runToIdle n s = .next t := by
  obtain ⟨m, hm, hreach⟩ := h
  rw [← Nat.add_sub_of_le hm, hreach, runToIdle_of_idle ht]

/-! ## The end of a command's last transaction -/

/-- In a command's first transaction the opcode is the one latched (R131). -/
theorem txOpcode_of_first {s : State} (hseq : s.seq = false) : s.txOpcode = s.latch.op :=
  if_neg fun h => Bool.false_ne_true (hseq.symm.trans h)

/-- At the end of a command's first transaction no earlier failure stands (R148). -/
theorem keepsFirst_of_first {s : State} (hseq : s.seq = false) : s.keepsFirst = false := by
  rw [State.keepsFirst, hseq]
  rfl

/-- From the end of its last transaction a command goes over PH_DONE to what it leaves as a value: the outcome recorded, unless
an earlier failure of a ClearScreen stands (R138, R148). -/
theorem reach_finish {p : State × TxOut}
    (hsession : p.1.txOpcode = 0x00 → p.1.session = if p.2.isOk then .ready else .idle)
    (hlast : p.1.latch.op = 0x2E → p.1.seq = true) :
    ReachWithin 1 (p.1.endTransaction p.2) (State.finish (if p.1.keepsFirst then p.1 else conclude p)) := by
  have hph : ¬ (p.1.latch.op = 0x2E ∧ p.1.seq = false) := fun h => Bool.false_ne_true (h.2.symm.trans (hlast h.1))
  have hsettled : (if p.1.txOpcode = 0x00 then (if p.2.isOk then .ready else .idle) else p.1.session) = p.1.session := by
    split
    · exact (hsession ‹_›).symm
    · rfl
  have hseq : (p.1.seq || p.1.latch.op == 0x2E) = p.1.seq := by
    cases hq : p.1.seq with
    | true => rfl
    | false => exact beq_eq_false_iff_ne.mpr fun h => Bool.false_ne_true (hq.symm.trans (hlast h))
  have hend : p.1.endTransaction p.2 =
      { p.1 with result := if p.1.keepsFirst then p.1.result else p.2.record p.1.seq p.1.result, ph := .done } := by
    rw [State.endTransaction, State.settleSession_session, hsettled, hseq, if_neg hph]
    cases p.1.keepsFirst <;> rfl
  rw [hend]
  refine (Reach.of_phase (by nofun) rfl ?_).within
  cases p.1.keepsFirst <;> rfl

/-- The Handshake of a composite command, walked from its PH_DISCARD with SEQ set, leaves what its transaction as a value does
(R148). -/
theorem reach_followUp {s : State} (hph : s.ph = .discard) (hseq : s.seq = true) (hrb : s.reply.rb.wf = true) :
    ReachWithin 7 s
      (State.finish
        (if s.keepsFirst then (transaction 0x00 [] .ack 2 s).1 else conclude (transaction 0x00 [] .ack 2 s))) := by
  obtain ⟨hlatch, -, hseq', hresult, hsession⟩ := transaction_frame 0x00 [] .ack 2 s
  have hop : s.txOpcode = 0x00 := if_pos hseq
  have hshape : s.txShape = some .ack := if_pos hseq
  have hwalk : ReachWithin 6 s _ :=
    reach_transaction hph hop (if_pos hseq) hshape (n := 2) (by rw [State.txCount, hshape]; rfl) (by decide)
      (by rw [hseq, Bool.true_or]) (fun h => Bool.false_ne_true (h.1.symm.trans hseq)) hrb
  have hkeep : (transaction 0x00 [] .ack 2 s).1.keepsFirst = s.keepsFirst := by
    rw [State.keepsFirst, hlatch, hseq', hresult, State.keepsFirst]
  rw [← hkeep]
  exact hwalk.trans (reach_finish (fun _ => hsession) (fun _ => hseq'.trans hseq))

/-! ## A command's own transaction -/

/-- PH_ENCODE of an unbuilt payload ends the transaction (R108). -/
theorem phEncode_of_noPayload {s : State} (h : s.txPayload = none) : phEncode s = s.raiseError .encodingError {} := by
  rw [phEncode, h]

/-- PH_ENCODE of a payload whose frame fits goes on to PH_WRITE (R133). -/
theorem phEncode_of_encoded {s : State} {p : List Byte} {c : Codec} (hp : s.txPayload = some p)
    (hc : frameEncode s.txOpcode p s.codec = some c) : phEncode s = { s with codec := c, ph := .write } := by
  simp only [phEncode, hp, hc]

/-- From the issue of any command but a Handshake to its PH_ENCODE is one phase (R132). -/
theorem reach_encode (s : State) {i : Instr} (h0 : i.opcode.byte ≠ 0x00) :
    Reach 1 (s.issue (rawOf i)) { s.issue (rawOf i) with env := s.env.discardBuffered, ph := .encode } :=
  .of_phase nofun rfl (phDiscard_of_ne_zero (by rwa [issue_txOpcode]))

/-- After the issue of a command its PH_ENCODE does not stop: every operand it reads is written (R25). -/
theorem phaseGuard_encode_issue (s : State) (i : Instr) (e : Env) :
    phaseGuard { s.issue (rawOf i) with env := e, ph := .encode } = none :=
  if_pos (operandsWritten_accept_rawOf s.latch i)

/-- The opcode register after a command's issue holds no other opcode's byte (R104). -/
theorem rawOf_op_ne {i : Instr} {o : Opcode} (h : i.opcode ≠ o) : (rawOf i).op ≠ o.byte := fun hop =>
  h (Option.some.inj ((Laws.FrameShape.ofByte_byte i.opcode).symm.trans
    ((congrArg Opcode.ofByte ((rawOf_op i).symm.trans hop)).trans (Laws.FrameShape.ofByte_byte o))))

/-- A command's own transaction leaves PH alone (R149). -/
theorem ownTransaction_ph (i : Instr) (s : State) : (ownTransaction i s).1.ph = s.ph := by
  cases h : i.wellFormed with
  | true =>
    rw [ownTransaction_of_wellFormed h]
    obtain ⟨-, hph, -, -, -⟩ := transaction_frame i.opcode.byte i.payload i.opcode.shape (readCount i) s
    exact hph
  | false =>
    rw [ownTransaction_of_illFormed h]
    rfl

/-- From the issue of a command but SetBaudRate the block walks to the end of the command's own transaction (R131 to R138). -/
theorem reach_ownTransaction {s : State} {i : Instr} (hi : i.opcode ≠ .setBaudRate) (hl : s.latch.str.wf = true)
    (hrb : s.reply.rb.wf = true) :
    ReachWithin 6 (s.issue (rawOf i))
      ((ownTransaction i (s.issue (rawOf i))).1.endTransaction (ownTransaction i (s.issue (rawOf i))).2) := by
  have hpayload := issue_txPayload hl i
  cases hwf : i.wellFormed with
  | true =>
    rw [ownTransaction_of_wellFormed hwf]
    rw [hwf] at hpayload
    exact reach_transaction rfl (issue_txOpcode s i) hpayload (issue_txShape s i) (issue_txCount s i) (readCount_le i hwf)
      (operandsWritten_accept_rawOf s.latch i) (fun h => rawOf_op_ne hi h.2) hrb
  | false =>
    have h0 : i.opcode.byte ≠ 0x00 := opcode_byte_ne_zero (by rintro rfl; cases hwf)
    rw [ownTransaction_of_illFormed hwf, encodingFailure_of_ne_zero h0]
    rw [hwf] at hpayload
    have hencode := Reach.of_phase (by nofun) (phaseGuard_encode_issue s i s.env.discardBuffered)
      (phEncode_of_noPayload hpayload)
    exact ((reach_encode s h0).trans hencode).within.mono (by decide)

/-! ## The commands -/

/-- A command of one transaction, walked from its issue (R131 to R138). -/
theorem reach_conclude {s : State} {i : Instr} (hrate : i.opcode ≠ .setBaudRate) (hclear : i.opcode ≠ .clearScreen)
    (hl : s.latch.str.wf = true) (hrb : s.reply.rb.wf = true) :
    ReachWithin 7 (s.issue (rawOf i)) (State.finish (conclude (ownTransaction i (s.issue (rawOf i))))) := by
  obtain ⟨hlatch, hseq, hsession⟩ := ownTransaction_frame i (s.issue (rawOf i))
  have hop : (ownTransaction i (s.issue (rawOf i))).1.latch.op = (rawOf i).op := congrArg Latch.op hlatch
  have hend : ReachWithin 1 _ _ := reach_finish (p := ownTransaction i (s.issue (rawOf i)))
    (fun h0 => by
      rw [txOpcode_of_first hseq, hop, rawOf_op] at h0
      rw [hsession]
      exact if_pos h0)
    (fun h => absurd (hop.symm.trans h) (rawOf_op_ne hclear))
  rw [keepsFirst_of_first hseq] at hend
  exact (reach_ownTransaction hrate hl hrb).trans hend

/-- The end of the first transaction of a ClearScreen is the beginning of its Handshake, the outcome recorded (R148). -/
theorem endTransaction_of_clear {s : State} (hph : s.ph = .discard) (hseq : s.seq = false) (hop : s.latch.op = 0x2E)
    (out : TxOut) : s.endTransaction out = { s.recordOutcome out with seq := true } := by
  have htx : s.txOpcode ≠ 0x00 := by
    rw [txOpcode_of_first hseq, hop]
    decide
  rw [State.endTransaction, settleSession_of_ne_zero htx, keepsFirst_of_first hseq, if_pos ⟨hop, hseq⟩, hop, hseq, ← hph]
  rfl

/-- The Handshake of a ClearScreen keeps the first outcome exactly if that was a failure (R148, log entry 26). -/
theorem keepsFirst_of_clear {s : State} (hop : s.latch.op = 0x2E) {out : TxOut} (hout : out.Sound) :
    State.keepsFirst { s.recordOutcome out with seq := true } = !out.isOk := by
  rw [State.keepsFirst, State.recordOutcome_latch, hop, State.recordOutcome_result]
  cases out with
  | ok p => rfl
  | fail k p => exact bne_iff_ne.mpr hout

/-- From the end of a ClearScreen's own transaction the block walks through the Handshake that folds into it (R148). -/
theorem reach_foldHandshake {p : State × TxOut} (hph : p.1.ph = .discard) (hseq : p.1.seq = false)
    (hop : p.1.latch.op = 0x2E) (hout : p.2.Sound) (hrb : p.1.reply.rb.wf = true) :
    ReachWithin 7 (p.1.endTransaction p.2) (State.finish (foldHandshake p.2 p.1)) := by
  have hfollow : ReachWithin 7 _ _ := reach_followUp (s := { p.1.recordOutcome p.2 with seq := true }) hph rfl hrb
  rw [endTransaction_of_clear hph hseq hop, foldHandshake]
  rw [keepsFirst_of_clear hop hout] at hfollow
  cases hok : p.2.isOk <;> simpa [hok] using hfollow

/-- A ClearScreen, walked from its issue: its own transaction, then the Handshake (R148). -/
theorem reach_clearScreen {s : State} (hl : s.latch.str.wf = true) (hrb : s.reply.rb.wf = true) :
    ReachWithin 13 (s.issue (rawOf .clearScreen))
      (State.finish (completion .clearScreen (ownTransaction .clearScreen (s.issue (rawOf .clearScreen))))) := by
  obtain ⟨hlatch, hseq, -⟩ := ownTransaction_frame .clearScreen (s.issue (rawOf .clearScreen))
  obtain ⟨hrb', -⟩ := (ownTransaction_reply .clearScreen (s.issue (rawOf .clearScreen))).rb hrb
  exact (reach_ownTransaction (by nofun) hl hrb).trans
    (reach_foldHandshake (ownTransaction_ph _ _) hseq (congrArg Latch.op hlatch) (ownTransaction_outcome_sound _ _) hrb')

/-- A frame that was encoded has at most 1033 bytes (R99). -/
theorem frameEncode_flen_le {o : Byte} {p : List Byte} {c d : Codec} (h : frameEncode o p c = some d) :
    d.flen.toNat ≤ 1033 := by
  rw [frameEncode_eq] at h
  split at h
  · cases h
  · obtain rfl := Option.some.inj h
    rw [BitVec.toNat_ofNat]
    omega

/-- From the issue of a well-formed command but a Handshake whose frame fits to its PH_WRITE are two phases (R132, R133). -/
theorem reach_write {s : State} {i : Instr} {c : Codec} (h0 : i.opcode.byte ≠ 0x00) (hl : s.latch.str.wf = true)
    (hwf : i.wellFormed = true) (hc : frameEncode i.opcode.byte i.payload s.codec = some c) :
    Reach 2 (s.issue (rawOf i)) { s.issue (rawOf i) with env := s.env.discardBuffered, codec := c, ph := .write } := by
  have hpayload := issue_txPayload hl i
  rw [hwf] at hpayload
  rw [← issue_txOpcode s i] at hc
  exact (reach_encode s h0).trans
    (.of_phase (by nofun) (phaseGuard_encode_issue s i s.env.discardBuffered) (phEncode_of_encoded hpayload hc))

/-- The own transaction of a well-formed command but a Handshake whose frame fits is the write of the frame and what follows it
(R149). -/
theorem ownTransaction_of_encoded {s : State} {i : Instr} {c : Codec} (h0 : i.opcode.byte ≠ 0x00)
    (hwf : i.wellFormed = true) (hc : frameEncode i.opcode.byte i.payload s.codec = some c) :
    ownTransaction i s =
      afterWrite i.opcode.byte i.opcode.shape (readCount i)
        (State.sendFrame { s with env := s.env.discardBuffered, codec := c }) := by
  rw [ownTransaction_of_wellFormed hwf, transaction_of_encoded _ _ hc, beginTransaction_of_ne_zero h0]

/-- PH_WRITE stops neither for a command of the Command Set nor for a frame that fits (R60, R134). -/
theorem phaseGuard_write {s : State} {shape : Shape} (hph : s.ph = .write) (hshape : s.txShape = some shape)
    (hflen : s.codec.flen.toNat ≤ 1033) : phaseGuard s = none := by
  simp [phaseGuard, hph, hshape, hflen]

/-- A SetBaudRate whose write failed ends there (R134). -/
theorem reach_rate_failed {s : State} (hseq : s.seq = false) (hop : s.latch.op = 0x01) :
    ReachWithin 1 (s.raiseError .transportError {}) (State.finish (conclude (s, .fail .transportError {}))) := by
  have htx : s.txOpcode ≠ 0x00 := by
    rw [txOpcode_of_first hseq, hop]
    decide
  have hend : ReachWithin 1 _ _ := reach_finish (p := (s, .fail .transportError {})) (fun h => absurd h htx)
    (fun h => by cases hop.symm.trans h)
  rw [keepsFirst_of_first hseq] at hend
  exact hend

/-- A SetBaudRate whose frame was written goes over PH_RECONF to its Handshake (R148, R171). -/
theorem reach_rate_written {s : State} (hph : s.ph = .discard) (hseq : s.seq = false) (hop : s.latch.op = 0x01)
    (hrate : s.latch.written.rate = true) (hrb : s.reply.rb.wf = true) :
    ReachWithin 8 { s with ph := .reconf } (State.finish (reconfigureAndVerify s.latch.rate s)) := by
  have hguard : phaseGuard { s with ph := .reconf } = none := by simp [phaseGuard, hseq, hop, hrate]
  have hreconf : Reach 1 { s with ph := .reconf }
      { s with env := s.env.configureBaudRate s.latch.rate, seq := true } :=
    .of_phase (by nofun) hguard (by rw [hph]; rfl)
  have hkeep : State.keepsFirst { s with env := s.env.configureBaudRate s.latch.rate, seq := true } = false := by
    rw [State.keepsFirst, hop]
    rfl
  have hfollow : ReachWithin 7 _ _ := reach_followUp
    (s := { s with env := s.env.configureBaudRate s.latch.rate, seq := true }) hph rfl hrb
  rw [hkeep] at hfollow
  exact hreconf.within.trans hfollow

/-- From PH_WRITE a SetBaudRate goes on by the answer of the write (R134, R171). -/
theorem reach_rate_write {s : State} (hph : s.ph = .discard) (hseq : s.seq = false) (hop : s.latch.op = 0x01)
    (hrate : s.latch.written.rate = true) (hrb : s.reply.rb.wf = true) :
    ReachWithin 8 (phWrite { s with ph := .write })
      (State.finish (completion (.setBaudRate s.latch.rate) (afterWrite 0x01 .none 0 s.sendFrame))) := by
  have hsend : State.sendFrame { s with ph := .write } = (s.sendFrame.1, { s.sendFrame.2 with ph := .write }) := rfl
  have hone : (0x01 : Byte) ≠ 0x00 := by decide
  unfold phWrite afterWrite
  rw [hsend]
  cases hanswer : s.sendFrame.1 with
  | ioerr =>
    dsimp only [State.closeTransaction]
    rw [settleSession_of_ne_zero hone]
    exact (reach_rate_failed (s := s.sendFrame.2) hseq hop).mono (by decide)
  | ok =>
    dsimp only [State.closeTransaction]
    rw [settleSession_of_ne_zero hone, if_pos ⟨hseq, hop⟩]
    exact reach_rate_written (s := s.sendFrame.2) hph hseq hop hrate hrb

/-- A SetBaudRate, walked from its issue: its frame is written, then PH_RECONF and the Handshake, or the write fails and the
command ends (R134, R148). -/
theorem reach_setBaudRate {s : State} (rate : Word32) (hl : s.latch.str.wf = true) (hrb : s.reply.rb.wf = true) :
    ReachWithin 11 (s.issue (rawOf (.setBaudRate rate)))
      (State.finish
        (completion (.setBaudRate rate) (ownTransaction (.setBaudRate rate) (s.issue (rawOf (.setBaudRate rate)))))) := by
  have h0 : (Instr.setBaudRate rate).opcode.byte ≠ 0x00 := opcode_byte_ne_zero nofun
  obtain ⟨c, hc⟩ := frameEncode_of_fits (Instr.setBaudRate rate).opcode.byte s.codec
    (p := (Instr.setBaudRate rate).payload) (of_decide_eq_true rfl)
  rw [ownTransaction_of_encoded (s := s.issue (rawOf (.setBaudRate rate))) h0 rfl hc]
  have hwritten := Reach.of_phase (t := phWrite _) (by nofun)
    (phaseGuard_write (s := { s.issue (rawOf (.setBaudRate rate)) with
      env := s.env.discardBuffered, codec := c, ph := .write }) rfl (issue_txShape s _) (frameEncode_flen_le hc)) rfl
  exact ((reach_write h0 hl rfl hc).trans hwritten).within.trans
    (reach_rate_write (s := { s.issue (rawOf (.setBaudRate rate)) with env := s.env.discardBuffered, codec := c })
      rfl rfl rfl rfl hrb)

/-- The phases of a command, walked from its issue, lead to what the command leaves as a value. -/
theorem reach_completion {s : State} (i : Instr) (hl : s.latch.str.wf = true) (hrb : s.reply.rb.wf = true) :
    ReachWithin 20 (s.issue (rawOf i)) (State.finish (completion i (ownTransaction i (s.issue (rawOf i))))) := by
  cases i with
  | setBaudRate rate => exact (reach_setBaudRate rate hl hrb).mono (by decide)
  | clearScreen => exact (reach_clearScreen hl hrb).mono (by decide)
  | _ => exact (reach_conclude (by nofun) (by nofun) hl hrb).mono (by decide)

/-- Settles O14: the walk of at most 20 phases ends at PH_IDLE, in the state the command leaves as a value. -/
theorem phasesRunTheCommand : Obligations.PhasesRunTheCommand := fun i _ hph hl hrb =>
  ((reach_completion i hl hrb).runToIdle rfl).trans (exec_of_idle i hph).symm

end Sys2Proof.Machine
end

section
/-! PROOFS. A command of one transaction: what it leaves, by the exchange with the Transport (R138, R139, R149), and what each
reply decoder writes to the result registers. -/

namespace Sys2Proof.Machine

/-! ## A command of one transaction -/

/-- The payload of a well-formed command fits the frame (R99, R108). -/
theorem payload_fits {i : Instr} (h : i.wellFormed = true) : 9 + i.payload.length ≤ 1033 := by
  obtain ⟨-, -, hfits, -⟩ := i.wellFormed_iff.mp h
  exact (textFits_iff i).mp hfits

/-- An exchange other than `noRead` fits a shape with a reply: its write fails, or a read follows. -/
theorem fits_of_reads {shape : Shape} (h : shape.reads = true) {x : Exchange} (hx : x ≠ .noRead) :
    x = .writeError ∨ shape.reads = (x != .noRead) :=
  .inr (h.trans (bne_iff_ne.mpr hx).symm)

/-- A well-formed command that ends with its own transaction leaves what its exchange says, with its outcome recorded; only a
Handshake moves S. -/
theorem exec_of_exchange {i : Instr} {s : State} {x : Exchange} {r : Result} (hwf : i.wellFormed = true)
    (hends : ∀ u, completion i (u, x.outcome i.opcode.shape (readCount i)) =
      conclude (u, x.outcome i.opcode.shape (readCount i)))
    (hready : s.readyFor x) (hx : x = .writeError ∨ i.opcode.shape.reads = (x != .noRead))
    (hr : ∀ q, { (x.outcome i.opcode.shape (readCount i)).record false q with valid := true } = r) :
    ∃ t, exec i s = .next t ∧
      t.observed =
        ({ s.afterCommand i i.payload (readCount i) x r with
            session :=
              if i.opcode.byte = 0x00 then
                (if (x.outcome i.opcode.shape (readCount i)).isOk then .ready else .idle)
              else s.session } : State).observed := by
  obtain ⟨hph, hfb, ⟨ws, hws⟩, ⟨rs, hrs⟩⟩ := hready
  refine ⟨_, exec_of_idle i hph, ?_⟩
  rw [ownTransaction_of_wellFormed hwf,
    transaction_of_exchange (s := s.issue (rawOf i)) (readCount i) hfb (payload_fits hwf) hx hws hrs, hends,
    finish_conclude, ← hr (s.issue (rawOf i)).result]
  rfl

/-- The same for a command that is no Handshake, which leaves S alone. -/
theorem exec_of_exchange_of_ne_handshake {i : Instr} {s : State} {x : Exchange} {r : Result} (hi : i ≠ .handshake)
    (hwf : i.wellFormed = true)
    (hends : ∀ u, completion i (u, x.outcome i.opcode.shape (readCount i)) =
      conclude (u, x.outcome i.opcode.shape (readCount i)))
    (hready : s.readyFor x) (hx : x = .writeError ∨ i.opcode.shape.reads = (x != .noRead))
    (hr : ∀ q, { (x.outcome i.opcode.shape (readCount i)).record false q with valid := true } = r) :
    ∃ t, exec i s = .next t ∧ t.observed = (s.afterCommand i i.payload (readCount i) x r).observed := by
  obtain ⟨t, ht, hobserved⟩ := exec_of_exchange hwf hends hready hx hr
  rw [if_neg (opcode_byte_ne_zero hi)] at hobserved
  exact ⟨t, ht, hobserved⟩

/-- The same for a command that is acknowledged (R141). -/
theorem exec_of_ackExchange {i : Instr} {s : State} {x : Exchange} (hi : i ≠ .handshake) (hwf : i.wellFormed = true)
    (hends : ∀ p, completion i p = conclude p) (hshape : i.opcode.shape = .ack) (hcount : readCount i = 2)
    (hready : s.readyFor x) (hx : x ≠ .noRead) :
    ∃ t, exec i s = .next t ∧ t.observed = (s.afterCommand i i.payload 2 x (ackResult false x)).observed := by
  rw [← hcount]
  have hreads : i.opcode.shape.reads = true := by rw [hshape]; rfl
  refine exec_of_exchange_of_ne_handshake hi hwf (fun _ => hends _) hready (fits_of_reads hreads hx) fun q => ?_
  rw [hshape, hcount]
  exact record_ack false q hx

/-! ## The domains and the decoder of one byte -/

/-- A byte is in a domain if it is one of the domain's codes (R112). -/
theorem byteInDomain_iff (d : Domain) (b : Byte) : byteInDomain d b = true ↔ b ∈ d.codes := by
  simp only [byteInDomain, inDomain, List.any_eq_true, beq_iff_eq]
  constructor
  · rintro ⟨c, hc, h⟩
    have hcb : c = b := by bv_omega
    exact hcb ▸ hc
  · exact fun h => ⟨b, h, rfl⟩

/-- The codes of StorageArea are 0 and 1 (R112). -/
theorem byteInDomain_storageArea_iff (b : Byte) : byteInDomain .storageArea b = true ↔ 0 ≤ b ∧ b ≤ 1 := by
  rw [byteInDomain_iff]
  simp only [Domain.codes, StorageArea.code, List.mem_cons, List.not_mem_nil, or_false]
  bv_omega

/-- The codes of DisplayDirection are 0 and 1 (R112). -/
theorem byteInDomain_displayDirection_iff (b : Byte) : byteInDomain .displayDirection b = true ↔ 0 ≤ b ∧ b ≤ 1 := by
  rw [byteInDomain_iff]
  simp only [Domain.codes, DisplayDirection.code, List.mem_cons, List.not_mem_nil, or_false]
  bv_omega

/-- The codes of FontSize are 1 to 3 (R112). -/
theorem byteInDomain_fontSize_iff (b : Byte) : byteInDomain .fontSize b = true ↔ 1 ≤ b ∧ b ≤ 3 := by
  rw [byteInDomain_iff]
  simp only [Domain.codes, FontSize.code, List.mem_cons, List.not_mem_nil, or_false]
  bv_omega

/-- The byte decoder of a domain `lo .. hi` writes the result registers of a byte query (R142, R139). -/
theorem record_byte {d : Domain} {lo hi : Byte} (hdomain : ∀ b, byteInDomain d b = true ↔ lo ≤ b ∧ b ≤ hi)
    (hlowest : d.lowest = lo) (r : Result) {x : Exchange} (hx : x ≠ .noRead) :
    { (x.outcome (.byte d) 1).record false r with valid := true } = byteResult lo hi x := by
  cases x with
  | noRead => exact absurd rfl hx
  | writeError | readError _ => rfl
  | reply got rest lost =>
    match got with
    | [] => rfl
    | b :: more =>
      by_cases hb : lo ≤ b ∧ b ≤ hi
      · have hin : byteInDomain d b = true := (hdomain b).mpr hb
        simp [Exchange.outcome, decodeReply, decodeByte, replyByte, typedByte, TxOut.record, byteResult,
          Result.succeeded, hin, hb]
      · have hout : byteInDomain d b = false := Bool.eq_false_iff.mpr (mt (hdomain b).mp hb)
        simp [Exchange.outcome, decodeReply, decodeByte, replyByte, typedByte, TxOut.record, byteResult,
          Result.succeeded, hout, hb, hlowest]

/-- A query for one byte leaves what its exchange says, with the byte raw and decoded (R142). -/
theorem exec_of_byteExchange {i : Instr} {s : State} {x : Exchange} {d : Domain} {lo hi : Byte} (hne : i ≠ .handshake)
    (hwf : i.wellFormed = true) (hends : ∀ p, completion i p = conclude p) (hshape : i.opcode.shape = .byte d)
    (hcount : readCount i = 1) (hdomain : ∀ b, byteInDomain d b = true ↔ lo ≤ b ∧ b ≤ hi) (hlowest : d.lowest = lo)
    (hready : s.readyFor x) (hx : x ≠ .noRead) :
    ∃ t, exec i s = .next t ∧ t.observed = (s.afterCommand i i.payload 1 x (byteResult lo hi x)).observed := by
  rw [← hcount]
  have hreads : i.opcode.shape.reads = true := by rw [hshape]; rfl
  refine exec_of_exchange_of_ne_handshake hne hwf (fun _ => hends _) hready (fits_of_reads hreads hx) fun q => ?_
  rw [hshape, hcount]
  exact record_byte hdomain hlowest q hx

/-! ## The decoder of a number -/

/-- The digits of the decoder are the codes of ASCII digits (R17). -/
theorem isDigit_eq : isDigit = fun b => decide (0x30 ≤ b ∧ b ≤ 0x39) := by
  funext b
  rw [Bool.eq_iff_iff, isDigit_iff, decide_eq_true_eq]

/-- A reply that begins with a digit decodes to the number its leading digits stand for (R144). -/
theorem decodeNumericAscii_of_digit {a : Byte} (ha : isDigit a = true) (more : List Byte) :
    decodeNumericAscii (a :: more) =
      .ok { kind := .numericAscii, b0 := a, b1 := more.headD 0, dom := true,
            num := BitVec.ofNat 32 (digitSum ((a :: more).takeWhile isDigit)) } := by
  have hsplit : (a :: more).takeWhile isDigit ++ (a :: more).dropWhile isDigit = a :: more :=
    List.takeWhile_append_dropWhile
  have hdecode := decodeNumericAscii_of_digits (digits := (a :: more).takeWhile isDigit)
    (rest := (a :: more).dropWhile isDigit) (by simp [ha]) (by rw [hsplit])
  rw [hsplit] at hdecode
  rw [hdecode]
  cases more <;> rfl

/-- A reply that begins with another byte is unexpected (R144). -/
theorem decodeNumericAscii_of_not_digit {a : Byte} (ha : isDigit a = false) (more : List Byte) :
    decodeNumericAscii (a :: more) = .fail .unexpectedReply { kind := .textStatus, b0 := a, b1 := more.headD 0 } := by
  have hnone : (a :: more).takeWhile isDigit = [] := List.takeWhile_cons_of_neg (by simp [ha])
  rw [decodeNumericAscii, hnone, if_neg (by simp), if_pos List.length_nil]
  cases more <;> rfl

/-- The numeric decoder writes the result registers of a GetBaudRate (R144, R139). -/
theorem record_numericAscii (n : Nat) (r : Result) {x : Exchange} (hx : x ≠ .noRead) :
    { (x.outcome .numericAscii n).record false r with valid := true } = numberResult n x := by
  cases x with
  | noRead => exact absurd rfl hx
  | writeError | readError _ => rfl
  | reply got rest lost =>
    simp only [Exchange.outcome, decodeReply, numberResult]
    match got.take n with
    | [] => rfl
    | a :: more =>
      by_cases ha : 0x30 ≤ a ∧ a ≤ 0x39
      · rw [decodeNumericAscii_of_digit ((isDigit_iff a).mpr ha), isDigit_eq]
        exact (if_pos ha).symm
      · rw [decodeNumericAscii_of_not_digit (Bool.eq_false_iff.mpr (mt (isDigit_iff a).mp ha))]
        exact (if_neg ha).symm

end Sys2Proof.Machine
end

section
/-! PROOFS. The system and configuration commands (41_system_config): each by its exchanges with the Transport. -/

namespace Sys2Proof.Machine

/-! ## Handshake -/

/-- Settles O25: a Handshake is an acknowledged transaction under the opcode that moves S. -/
theorem handshakeRuns : Obligations.HandshakeRuns := by
  intro s x hready hx
  rw [← outcome_ack_isOk false hx]
  exact exec_of_exchange (i := .handshake) rfl (fun _ => rfl) hready (fits_of_reads rfl hx) fun q => record_ack false q hx

/-! ## SetBaudRate -/

/-- The Handshake of a composite command leaves what its exchange says, with its outcome recorded under SEQ (R148). -/
theorem finish_followUp_of_exchange {u : State} {x : Exchange} {ws : List WriteAnswer} {rs : List ReadAnswer}
    (hseq : u.seq = true) (hfb : u.codec.fb.wf = true) (hx : x ≠ .noRead) (hws : u.env.writeAnswers = x.writes ++ ws)
    (hrs : u.env.readAnswers = x.reads ++ rs) :
    (State.finish (conclude (transaction 0x00 [] .ack 2 u))).observed =
      ({ u.exchanged 0x00 [] 2 x with
          ph := .idle
          session := if (ackResult true x).ok then .ready else .idle
          result := ackResult true x } : State).observed := by
  have hresult : { (x.outcome .ack 2).record u.seq u.result with valid := true } = ackResult true x := by
    rw [hseq]
    exact record_ack true u.result hx
  rw [transaction_of_exchange 2 hfb (by decide) (fits_of_reads rfl hx) hws hrs, finish_conclude,
    outcome_ack_isOk true hx, ← hresult]
  rfl

/-- A SetBaudRate whose frame is written sets the Transport's rate and ends as its Handshake does (R148, R171). -/
theorem exec_setBaudRate_of_written {s : State} (rate : Word32) {x : Exchange} {ws : List WriteAnswer}
    {rs : List ReadAnswer} (hx : x ≠ .noRead) (hph : s.ph = .idle) (hfb : s.codec.fb.wf = true)
    (hws : s.env.writeAnswers = .ok :: x.writes ++ ws) (hrs : s.env.readAnswers = x.reads ++ rs) :
    ∃ t, exec (.setBaudRate rate) s = .next t ∧
      t.observed =
        ({ ({ s.exchanged 0x01 (be32 rate) 0 .noRead with
                env := (s.exchanged 0x01 (be32 rate) 0 .noRead).env.configureBaudRate rate } : State).exchanged
              0x00 [] 2 x with
            latch := s.latch.accept (rawOf (.setBaudRate rate))
            ph := .idle
            seq := true
            session := if (ackResult true x).ok then .ready else .idle
            result := ackResult true x } : State).observed := by
  refine ⟨_, exec_of_idle _ hph, ?_⟩
  rw [ownTransaction_of_wellFormed rfl,
    transaction_of_exchange (s := s.issue (rawOf (.setBaudRate rate))) (x := .noRead) _ hfb
      (payload_fits (i := .setBaudRate rate) rfl) (.inr rfl) hws hrs]
  refine (finish_followUp_of_exchange (ws := ws) (rs := rs) rfl (Memory.wf_writeBytes hfb 0 _) hx ?_ ?_).trans rfl
  · exact congrArg (List.drop 1) hws
  · exact hrs

/-- Settles O26: a write that fails ends the command with its own transaction, one that succeeds leads on to its Handshake. -/
theorem setBaudRateRuns : Obligations.SetBaudRateRuns := by
  intro s rate
  refine ⟨fun hready => ?_, fun x hx hph hfb ⟨_, hws⟩ ⟨_, hrs⟩ => ?_⟩
  · exact exec_of_exchange_of_ne_handshake (i := .setBaudRate rate) nofun rfl (fun _ => rfl) hready (.inl rfl) fun _ => rfl
  · exact exec_setBaudRate_of_written rate hx hph hfb hws hrs

/-! ## GetBaudRate -/

/-- The legal read sizes are those from 1 to 9 (R24). -/
theorem readSizeLegal_iff (nread : BitVec 4) : readSizeLegal nread = true ↔ 1 ≤ nread.toNat ∧ nread.toNat ≤ 9 := by
  rw [readSizeLegal, Bool.and_eq_true, decide_eq_true_eq, decide_eq_true_eq]
  rfl

/-- Settles O27: a legal read size makes the command well formed, and its reply is decoded as a number; any other makes it
fail its checks. -/
theorem getBaudRateRuns : Obligations.GetBaudRateRuns := by
  intro s nread
  refine ⟨fun hlegal x hready hx => ?_, fun hillegal hph => illFormedCommandFails _ s hph ?_⟩
  · have hwf : (Instr.getBaudRate nread).wellFormed = true :=
      (wellFormed_getBaudRate nread).trans ((readSizeLegal_iff nread).mpr hlegal)
    exact exec_of_exchange_of_ne_handshake nofun hwf (fun _ => rfl) hready (fits_of_reads rfl hx)
      fun q => record_numericAscii nread.toNat q hx
  · rw [wellFormed_getBaudRate, Bool.eq_false_iff, ne_eq, readSizeLegal_iff]
    omega

/-! ## The queries for one byte, EnterSleep and the actions -/

/-- Settles O28: each is a query for one byte of its domain. -/
theorem byteQueriesRun : Obligations.ByteQueriesRun := fun _ _ hready hx =>
  ⟨exec_of_byteExchange (i := .getStorageArea) nofun rfl (fun _ => rfl) rfl rfl byteInDomain_storageArea_iff rfl hready hx,
    exec_of_byteExchange (i := .getDisplayDirection) nofun rfl (fun _ => rfl) rfl rfl byteInDomain_displayDirection_iff rfl
      hready hx,
    exec_of_byteExchange (i := .getEnglishFontSize) nofun rfl (fun _ => rfl) rfl rfl byteInDomain_fontSize_iff rfl hready hx,
    exec_of_byteExchange (i := .getChineseFontSize) nofun rfl (fun _ => rfl) rfl rfl byteInDomain_fontSize_iff rfl hready hx⟩

/-- Settles O30: nothing is read, so the exchange ends with the answer of the write. -/
theorem enterSleepRuns : Obligations.EnterSleepRuns := by
  rintro s x hready (rfl | rfl)
  · exact exec_of_exchange_of_ne_handshake (i := .enterSleep) nofun rfl (fun _ => rfl) hready (.inr rfl) fun _ => rfl
  · exact exec_of_exchange_of_ne_handshake (i := .enterSleep) nofun rfl (fun _ => rfl) hready (.inl rfl) fun _ => rfl

/-- Settles O31: each is an acknowledged command without operands. -/
theorem actionsRun : Obligations.ActionsRun := fun _ _ hready hx =>
  ⟨exec_of_ackExchange (i := .refresh) nofun rfl (fun _ => rfl) rfl rfl hready hx,
    exec_of_ackExchange (i := .importFontLibrary) nofun rfl (fun _ => rfl) rfl rfl hready hx,
    exec_of_ackExchange (i := .importImage) nofun rfl (fun _ => rfl) rfl rfl hready hx⟩

/-! ## The setters of two codes -/

/-- A command without a string and without an illegal read size is well formed exactly if its operands are in their domains
(R108). -/
theorem wellFormed_eq_operandsInDomain {i : Instr} (hread : i.readSizeOk = true) (htext : i.text = []) :
    i.wellFormed = i.operandsInDomain := by
  have hfits : i.textFits = true := by rw [Instr.textFits, htext]; rfl
  have hclean : i.textClean = true := by rw [Instr.textClean, htext]; rfl
  rw [Instr.wellFormed, hread, hfits, hclean, Bool.and_true, Bool.and_true, Bool.and_true]

/-- The operands of a domain with the codes 0 and 1 are the values 0 and 1, all 16 bits counted (R102, R112). -/
theorem inDomain_iff_zero_or_one {d : Domain} (h : d.codes = [0, 1]) (v : Word16) :
    inDomain d v = true ↔ v = 0 ∨ v = 1 := by
  simp only [inDomain, h, List.any_cons, List.any_nil, Bool.or_false, Bool.or_eq_true, beq_iff_eq]
  bv_omega

/-- SetStorageArea passes its checks for the operands 0 and 1 only (R102, R174). -/
theorem wellFormed_setStorageArea_iff (v : Word16) : (Instr.setStorageArea v).wellFormed = true ↔ v = 0 ∨ v = 1 := by
  rw [wellFormed_eq_operandsInDomain rfl rfl]
  exact inDomain_iff_zero_or_one rfl v

/-- SetDisplayDirection passes its checks for the operands 0 and 1 only (R102, R178). -/
theorem wellFormed_setDisplayDirection_iff (v : Word16) :
    (Instr.setDisplayDirection v).wellFormed = true ↔ v = 0 ∨ v = 1 := by
  rw [wellFormed_eq_operandsInDomain rfl rfl]
  exact inDomain_iff_zero_or_one rfl v

/-- Settles O32: an operand of 0 or 1 makes the setter an acknowledged command, any other makes it fail its checks. -/
theorem twoCodeSettersRun : Obligations.TwoCodeSettersRun := by
  intro s v
  have harea := wellFormed_setStorageArea_iff v
  have hdirection := wellFormed_setDisplayDirection_iff v
  refine ⟨fun hv x hready hx => ?_, fun hv hph => ?_⟩
  · exact ⟨exec_of_ackExchange nofun (harea.mpr hv) (fun _ => rfl) rfl rfl hready hx,
      exec_of_ackExchange nofun (hdirection.mpr hv) (fun _ => rfl) rfl rfl hready hx⟩
  · have hout : ¬(v = 0 ∨ v = 1) := not_or.mpr hv
    exact ⟨illFormedCommandFails _ s hph (Bool.eq_false_iff.mpr (mt harea.mp hout)),
      illFormedCommandFails _ s hph (Bool.eq_false_iff.mpr (mt hdirection.mp hout))⟩

end Sys2Proof.Machine
end

section
/-! PROOFS. The attribute commands (42_attributes): the drawing colours and the font sizes, each operand held to its domain and
each reply byte decoded in it (R112, R190 to R195). -/

namespace Sys2Proof.Machine

/-! ## The colours and font sizes -/

/-- The operands of Color are the values 0 to 3, all 16 bits counted (R102, R112). -/
theorem inDomain_color_iff (v : Word16) : inDomain .color v = true ↔ v ≤ 3 := by
  simp only [inDomain, Domain.codes, Color.code, List.any_cons, List.any_nil, Bool.or_false, Bool.or_eq_true, beq_iff_eq]
  bv_omega

/-- The operands of FontSize are the values 1 to 3, all 16 bits counted (R102, R112). -/
theorem inDomain_fontSize_iff (v : Word16) : inDomain .fontSize v = true ↔ 1 ≤ v ∧ v ≤ 3 := by
  simp only [inDomain, Domain.codes, FontSize.code, List.any_cons, List.any_nil, Bool.or_false, Bool.or_eq_true, beq_iff_eq]
  bv_omega

/-- A reply byte is a colour if it is at most 3 (R112). -/
theorem byteInDomain_color (b : Byte) : byteInDomain .color b = decide (b ≤ 3) := by
  rw [Bool.eq_iff_iff, decide_eq_true_eq, byteInDomain, inDomain_color_iff]
  bv_omega

/-- A reply byte that is no colour decodes as Black (R112, R143). -/
theorem typedByte_color (b : Byte) : typedByte .color b = if b ≤ 3 then b else 0 := by
  simp only [typedByte, byteInDomain_color, decide_eq_true_eq]
  rfl

/-! ## GetDrawingColor -/

/-- Two reply bytes always decode to a colour pair, the drawing colour first (R143). -/
theorem decodeColorPair_of_two (a b : Byte) :
    decodeColorPair [a, b] =
      .ok { kind := .colorPair, b0 := a, b1 := b, e0 := if a ≤ 3 then a else 0, e1 := if b ≤ 3 then b else 0,
            dom := a ≤ 3 && b ≤ 3 } := by
  rw [← typedByte_color, ← typedByte_color, ← byteInDomain_color, ← byteInDomain_color]
  rfl

/-- The colour decoder writes the result registers of a GetDrawingColor (R143, R139). -/
theorem record_colorPair (r : Result) {x : Exchange} (hx : x ≠ .noRead) :
    { (x.outcome .colorPair 2).record false r with valid := true } = colorResult x := by
  cases x with
  | noRead => exact absurd rfl hx
  | writeError | readError _ => rfl
  | reply got rest lost =>
    match got with
    | [] | [_] => rfl
    | a :: b :: more =>
      have hdecode : (Exchange.reply (a :: b :: more) rest lost).outcome .colorPair 2 = decodeColorPair [a, b] := rfl
      rw [hdecode, decodeColorPair_of_two]
      rfl

/-- Settles O29: the command is well formed and its reply of two bytes is decoded as a colour pair. -/
theorem getDrawingColorRuns : Obligations.GetDrawingColorRuns := fun _ _ hready hx =>
  exec_of_exchange_of_ne_handshake (i := .getDrawingColor) nofun rfl (fun _ => rfl) hready (fits_of_reads rfl hx)
    fun q => record_colorPair q hx

/-! ## The setters -/

/-- SetDrawingColor passes its checks if both operands are at most 3 (R102, R190). -/
theorem wellFormed_setDrawingColor_iff (color background : Word16) :
    (Instr.setDrawingColor color background).wellFormed = true ↔ color ≤ 3 ∧ background ≤ 3 := by
  rw [wellFormed_eq_operandsInDomain rfl rfl, Instr.operandsInDomain, Bool.and_eq_true, inDomain_color_iff,
    inDomain_color_iff]

/-- SetEnglishFontSize passes its checks for the operands 1 to 3 only (R102, R194). -/
theorem wellFormed_setEnglishFontSize_iff (v : Word16) :
    (Instr.setEnglishFontSize v).wellFormed = true ↔ 1 ≤ v ∧ v ≤ 3 := by
  rw [wellFormed_eq_operandsInDomain rfl rfl]
  exact inDomain_fontSize_iff v

/-- SetChineseFontSize passes its checks for the operands 1 to 3 only (R102, R195). -/
theorem wellFormed_setChineseFontSize_iff (v : Word16) :
    (Instr.setChineseFontSize v).wellFormed = true ↔ 1 ≤ v ∧ v ≤ 3 := by
  rw [wellFormed_eq_operandsInDomain rfl rfl]
  exact inDomain_fontSize_iff v

/-- Settles O33: two colours make the setter an acknowledged command, an operand above 3 makes it fail its checks. -/
theorem setDrawingColorRuns : Obligations.SetDrawingColorRuns := by
  intro s color background
  have hwf := wellFormed_setDrawingColor_iff color background
  refine ⟨fun hcolors x hready hx => ?_, fun habove hph => illFormedCommandFails _ s hph ?_⟩
  · exact exec_of_ackExchange nofun (hwf.mpr hcolors) (fun _ => rfl) rfl rfl hready hx
  · have hout : ¬(color ≤ 3 ∧ background ≤ 3) := by bv_omega
    exact Bool.eq_false_iff.mpr (mt hwf.mp hout)

/-- Settles O34: a code of 1 to 3 makes the setter an acknowledged command, any other operand makes it fail its checks. -/
theorem fontSizeSettersRun : Obligations.FontSizeSettersRun := by
  intro s v
  have henglish := wellFormed_setEnglishFontSize_iff v
  have hchinese := wellFormed_setChineseFontSize_iff v
  refine ⟨fun hv x hready hx => ?_, fun hv hph => ?_⟩
  · exact ⟨exec_of_ackExchange nofun (henglish.mpr hv) (fun _ => rfl) rfl rfl hready hx,
      exec_of_ackExchange nofun (hchinese.mpr hv) (fun _ => rfl) rfl rfl hready hx⟩
  · have hout : ¬(1 ≤ v ∧ v ≤ 3) := by bv_omega
    exact ⟨illFormedCommandFails _ s hph (Bool.eq_false_iff.mpr (mt henglish.mp hout)),
      illFormedCommandFails _ s hph (Bool.eq_false_iff.mpr (mt hchinese.mp hout))⟩

end Sys2Proof.Machine
end

section
/-! PROOFS. The drawing commands (43_drawing): eight that take any coordinates, and ClearScreen, which a Handshake always
follows (R200 to R208, R148). -/

namespace Sys2Proof.Machine

/-! ## The coordinate commands -/

/-- Settles O35: no check of R108 looks at a coordinate, so each is an acknowledged command for all operands. -/
theorem drawingCommandsRun : Obligations.DrawingCommandsRun := fun _ _ a b c d e f hready hx =>
  ⟨exec_of_ackExchange (i := .drawPoint a b) nofun rfl (fun _ => rfl) rfl rfl hready hx,
    exec_of_ackExchange (i := .drawLine a b c d) nofun rfl (fun _ => rfl) rfl rfl hready hx,
    exec_of_ackExchange (i := .fillRectangle a b c d) nofun rfl (fun _ => rfl) rfl rfl hready hx,
    exec_of_ackExchange (i := .drawRectangle a b c d) nofun rfl (fun _ => rfl) rfl rfl hready hx,
    exec_of_ackExchange (i := .drawCircle a b c) nofun rfl (fun _ => rfl) rfl rfl hready hx,
    exec_of_ackExchange (i := .fillCircle a b c) nofun rfl (fun _ => rfl) rfl rfl hready hx,
    exec_of_ackExchange (i := .drawTriangle a b c d e f) nofun rfl (fun _ => rfl) rfl rfl hready hx,
    exec_of_ackExchange (i := .fillTriangle a b c d e f) nofun rfl (fun _ => rfl) rfl rfl hready hx⟩

/-! ## ClearScreen -/

/-- An exchange takes one answer of `T.write` (R134). -/
theorem Exchange.drop_one_writes (x : Exchange) (ws : List WriteAnswer) : (x.writes ++ ws).drop 1 = ws := by
  cases x <;> rfl

/-- The Handshake that folds into a ClearScreen always makes its calls and moves S; its outcome is recorded only if the first
transaction succeeded, else the first one's stands (R148, R208). -/
theorem finish_foldHandshake_of_exchange {out : TxOut} {u : State} {y : Exchange} {ws : List WriteAnswer}
    {rs : List ReadAnswer} (hfb : u.codec.fb.wf = true) (hy : y ≠ .noRead) (hws : u.env.writeAnswers = y.writes ++ ws)
    (hrs : u.env.readAnswers = y.reads ++ rs) :
    (State.finish (foldHandshake out u)).observed =
      ({ u.exchanged 0x00 [] 2 y with
          ph := .idle
          seq := true
          session := if (ackResult true y).ok then .ready else .idle
          result :=
            if out.isOk then ackResult true y else { out.record u.seq u.result with valid := true } } : State).observed := by
  cases hok : out.isOk with
  | true =>
    rw [foldHandshake, if_pos hok]
    exact finish_followUp_of_exchange (u := { u.recordOutcome out with seq := true }) rfl hfb hy hws hrs
  | false =>
    rw [foldHandshake, if_neg (Bool.eq_false_iff.mp hok),
      transaction_of_exchange (s := { u.recordOutcome out with seq := true }) 2 hfb (by decide) (fits_of_reads rfl hy) hws
        hrs, outcome_ack_isOk true hy]
    rfl

/-- Settles O36: the command's own transaction leaves what its exchange says, whatever its outcome, and the Handshake folds
into that state. -/
theorem clearScreenRuns : Obligations.ClearScreenRuns := by
  intro s x y hph hfb hx hy ⟨ws, hws⟩ ⟨rs, hrs⟩
  rw [List.append_assoc] at hws hrs
  refine ⟨_, exec_of_idle _ hph, ?_⟩
  rw [ownTransaction_of_wellFormed rfl,
    transaction_of_exchange (s := s.issue (rawOf .clearScreen)) _ hfb (payload_fits (i := .clearScreen) rfl)
      (fits_of_reads rfl hx) hws hrs, ← outcome_ack_isOk false hx,
    ← record_ack false (s.issue (rawOf .clearScreen)).result hx]
  refine (finish_foldHandshake_of_exchange (ws := ws) (rs := rs) (Memory.wf_writeBytes hfb 0 _) hy ?_ ?_).trans rfl
  · exact (congrArg (List.drop 1) hws).trans (x.drop_one_writes _)
  · exact (congrArg (List.drop x.reads.length) hrs).trans List.drop_left

end Sys2Proof.Machine
end

section
/-! PROOFS. The text and image commands (44_text_image): a string that fits a frame and holds no 0x00 is sent whole, any other
string fails its checks (R99, R103, R215, R216). -/

namespace Sys2Proof.Machine

/-! ## DisplayText and DisplayImage -/

/-- A string is clean if no character of it is 0x00 (R103). -/
theorem stringClean_iff (str : List Byte) : stringClean str = true ↔ 0x00 ∉ str := by
  simp only [stringClean, List.all_eq_true, bne_iff_ne, List.forall_mem_ne']

/-- A string command passes its checks if its string has at most 1019 characters and no 0x00, whatever its position (R99, R103,
R108). -/
theorem wellFormed_iff_of_format_ps {i : Instr} (hi : i.opcode.format = .ps) :
    i.wellFormed = true ↔ i.text.length ≤ 1019 ∧ 0x00 ∉ i.text := by
  obtain ⟨hdomain, hsize⟩ : i.operandsInDomain = true ∧ i.readSizeOk = true := by
    cases i with
    | displayText _ _ _ | displayImage _ _ _ => exact ⟨rfl, rfl⟩
    | _ => exact absurd hi nofun
  rw [i.wellFormed_iff, Instr.textFits, Instr.textClean, stringFits_iff, stringClean_iff]
  exact ⟨fun ⟨_, _, htext⟩ => htext, fun htext => ⟨hdomain, hsize, htext⟩⟩

/-- Settles O37: a string that fits and holds no 0x00 makes the command well formed, any other string makes it fail its
checks. -/
theorem stringCommandsRun : Obligations.StringCommandsRun := by
  intro s a b str
  have htext := wellFormed_iff_of_format_ps (i := .displayText a b str) rfl
  have himage := wellFormed_iff_of_format_ps (i := .displayImage a b str) rfl
  refine ⟨fun hstr x hready hx => ?_, fun hstr hph => ?_⟩
  · exact ⟨exec_of_ackExchange nofun (htext.mpr hstr) (fun _ => rfl) rfl rfl hready hx,
      exec_of_ackExchange nofun (himage.mpr hstr) (fun _ => rfl) rfl rfl hready hx⟩
  · have hout : ¬(str.length ≤ 1019 ∧ 0x00 ∉ str) := fun ⟨hlen, hclean⟩ => hstr.elim (by omega) hclean
    exact ⟨illFormedCommandFails _ s hph (Bool.eq_false_iff.mpr (mt htext.mp hout)),
      illFormedCommandFails _ s hph (Bool.eq_false_iff.mpr (mt himage.mp hout))⟩

end Sys2Proof.Machine
end

section
/-! PROOFS. Exceptions (60_exceptions): every command ends, and bytes that arrive outside a read raise nothing (R236, R245,
R285). -/

namespace Sys2Proof.Machine

/-! ## Bytes that arrive outside a read -/

/-- The arrival of bytes is taken in any phase: the step takes the move and buffers the bytes (R236). -/
theorem step_of_arrive {s : State} {bs : List Byte} {ms : List HostMove} (hm : s.env.moves = .arrive bs :: ms) :
    step s = .next (State.arrive bs { s with env := { s.env with moves := ms } }) := by
  unfold step State.popMove
  rw [hm]
  rfl

/-- Settles O52: the arrival only puts the bytes behind the buffered ones. -/
theorem arrivalRaisesNothing : Obligations.ArrivalRaisesNothing := fun _ _ _ hm => step_of_arrive hm

/-! ## The end of every command -/

/-- Result registers are settled if RES_OK is set exactly with NoError in RES_ERR (R33). -/
theorem Result.settled_iff (r : Result) : r.Settled ↔ (r.ok = true ↔ r.err = .noError) := by
  rw [Result.Settled, beq_iff_eq, Bool.eq_iff_iff, beq_iff_eq]

/-- A command that answers a next state has set RES_VALID (R33, R138). -/
theorem exec_valid {i : Instr} {s t : State} (h : exec i s = .next t) : t.result.valid = true := by
  obtain ⟨-, rfl⟩ := exec_next h
  rw [State.finish_result]

/-- A command takes none of the host's further moves: it makes calls on the Transport only. -/
theorem exec_moves {i : Instr} {s t : State} (h : exec i s = .next t) : t.env.moves = s.env.moves := (exec_calls h).moves

/-- Settles O38: issued at PH_IDLE a command answers a next state, and whatever its transactions met, their outcomes are sound,
so that RES_OK and RES_ERR agree. -/
theorem everyCommandEnds : Obligations.EveryCommandEnds := by
  intro i s hph
  have hexec := exec_of_idle i hph
  obtain ⟨-, hsettled⟩ := exec_result_sound hexec
  exact ⟨_, hexec, exec_ph hexec, exec_valid hexec, exec_moves hexec, (Result.settled_iff _).mp hsettled⟩

end Sys2Proof.Machine
end

section
/-! PROOFS. What S and the host's moves do to a step: nothing a command does depends on S (R32, R243, R273), and the moves are
taken one at a time and in order (R285, R286). -/

namespace Sys2Proof.Machine

/-! ## The session gates nothing -/

/-- The state with another S. -/
def State.withSession (s : State) (a : Session) : State := { s with session := a }

/-- The end of a transaction does not read S: a Handshake overwrites it, another transaction leaves it alone (R138). -/
theorem closeTransaction_withSession (o : Byte) (out : TxOut) (s : State) (a : Session) :
    ∃ b, (s.withSession a).closeTransaction o out = ((s.closeTransaction o out).1.withSession b, out) := ⟨_, rfl⟩

/-- A failed encode does not read S (R108, R231). -/
theorem encodingFailure_withSession (o : Byte) (s : State) (a : Session) :
    ∃ b, encodingFailure o (s.withSession a) = ((encodingFailure o s).1.withSession b, (encodingFailure o s).2) :=
  closeTransaction_withSession o (.fail .encodingError {}) (s.beginTransaction o) _

/-- A read does not see S (R136). -/
theorem readReply_withSession (o : Byte) (n : Nat) (s : State) (a : Session) :
    (s.withSession a).readReply o n = ((s.readReply o n).1, (s.readReply o n).2.withSession a) := by
  unfold State.readReply
  dsimp only [State.withSession]
  split <;> rfl

/-- What follows a write does not read S: it settles, reads and decodes, and closes the transaction. -/
theorem afterWrite_withSession (o : Byte) (shape : Shape) (n : Nat) (w : WriteAnswer) (s : State) (a : Session) :
    ∃ b, afterWrite o shape n (w, s.withSession a) =
      ((afterWrite o shape n (w, s)).1.withSession b, (afterWrite o shape n (w, s)).2) := by
  cases w with
  | ioerr => exact closeTransaction_withSession o _ s a
  | ok =>
    simp only [afterWrite]
    split
    · rw [show (s.withSession a).settle o = (s.settle o).withSession a from rfl, readReply_withSession]
      unfold afterRead
      dsimp only
      split <;> exact closeTransaction_withSession o _ _ a
    · exact closeTransaction_withSession o _ s a

/-- A transaction does not read S: from states that differ only in S it makes the same calls and ends in the same outcome. -/
theorem transaction_withSession (o : Byte) (p : List Byte) (shape : Shape) (n : Nat) (s : State) (a : Session) :
    ∃ b, transaction o p shape n (s.withSession a) =
      ((transaction o p shape n s).1.withSession b, (transaction o p shape n s).2) := by
  cases h : frameEncode o p s.codec with
  | none =>
    rw [transaction_of_tooLong shape n h, transaction_of_tooLong (s := s.withSession a) shape n h]
    exact encodingFailure_withSession o s a
  | some c =>
    rw [transaction_of_encoded shape n h, transaction_of_encoded (s := s.withSession a) shape n h]
    set u : State := { s.beginTransaction o with codec := c }
    exact afterWrite_withSession o shape n u.sendFrame.1 u.sendFrame.2 _

/-- A command's own transaction does not read S. -/
theorem ownTransaction_withSession (i : Instr) (s : State) (a : Session) :
    ∃ b, ownTransaction i (s.withSession a) = ((ownTransaction i s).1.withSession b, (ownTransaction i s).2) := by
  cases h : i.wellFormed with
  | true =>
    rw [ownTransaction_of_wellFormed h, ownTransaction_of_wellFormed h]
    exact transaction_withSession _ _ _ _ s a
  | false =>
    rw [ownTransaction_of_illFormed h, ownTransaction_of_illFormed h]
    exact encodingFailure_withSession _ s a

/-- A completion does not read S: it records an outcome, or runs a Handshake whose transaction does not (R148). -/
theorem completion_withSession (i : Instr) (p : State × TxOut) (a : Session) :
    ∃ b, completion i (p.1.withSession a, p.2) = (completion i p).withSession b := by
  obtain ⟨s, out⟩ := p
  cases i with
  | setBaudRate rate =>
    obtain ⟨b, htx⟩ :=
      transaction_withSession 0x00 [] .ack 2 { s with env := s.env.configureBaudRate rate, seq := true } a
    cases out with
    | ok _ => exact ⟨b, congrArg conclude htx⟩
    | fail _ _ => exact ⟨a, rfl⟩
  | clearScreen =>
    obtain ⟨b, htx⟩ := transaction_withSession 0x00 [] .ack 2 { s.recordOutcome out with seq := true } a
    cases out with
    | ok _ => exact ⟨b, congrArg conclude htx⟩
    | fail _ _ => exact ⟨b, congrArg Prod.fst htx⟩
  | _ => exact ⟨a, rfl⟩

/-- Settles O42: the issue leaves S, and neither the command's own transaction nor its completion reads it. -/
theorem sessionGatesNothing : Obligations.SessionGatesNothing := by
  intro i s t a h
  obtain ⟨hph, rfl⟩ := exec_next h
  refine ⟨_, exec_of_idle i hph, ?_⟩
  have hissue : State.issue (rawOf i) { s with session := a } = (s.issue (rawOf i)).withSession a := rfl
  obtain ⟨b, hown⟩ := ownTransaction_withSession i (s.issue (rawOf i)) a
  obtain ⟨b', hcompletion⟩ := completion_withSession i (ownTransaction i (s.issue (rawOf i))) b
  rw [hissue, hown, hcompletion]
  rfl

/-! ## The host's moves -/

/-- Settles O47: a step makes calls, which leave the moves alone, with or without taking the first one, or that move brings
bytes. -/
theorem movesInOrder : Obligations.MovesInOrder := by
  intro s t hstep
  obtain hkept | htaken | ⟨bs, harrived⟩ := step_calls hstep
  · exact .inl hkept.moves
  · exact .inr htaken.moves
  · exact .inr (congrArg Env.moves harrived)

end Sys2Proof.Machine
end
